-- ==== Sys2Proof/Word.lean ====
section
/-! DEFINITION. The word types: 8-bit data and 16-bit addresses (R6, R24), and sparse memory as plain data. -/

namespace Sys2Proof

/-- An 8-bit unsigned byte, the only data width (R68, R195). -/
abbrev Byte := BitVec 8

/-- A 16-bit unsigned address (R25, R50). -/
abbrev Addr := BitVec 16

/-- A byte array held sparsely: (offset, byte) pairs, offsets strictly rising, no byte equal to the unlisted one. -/
abbrev Memory := List Host.Cell

end Sys2Proof
end

