-- ==== Sys2Proof/Machine/Bits.lean ====
section
/-! DEFINITION. The bit-field, extension and byte-order helpers of the spec's notation (R8). -/

namespace Sys2Proof

/-- "`concat(hi, lo)` is the 16-bit value `(hi << 8) | lo`" (R8). -/
def concat (hi lo : Byte) : Addr := hi ++ lo

/-- Bits 7:0 of a 16-bit value (R7). -/
def loByte (w : Addr) : Byte := w.setWidth 8

/-- Bits 15:8 of a 16-bit value (R7). -/
def hiByte (w : Addr) : Byte := (w >>> 8).setWidth 8

/-- A byte "as a 16-bit value with its top byte zero" (R8). -/
def zext16 (b : Byte) : Addr := b.setWidth 16

/-- A byte read as two's complement, reduced to 16 bits (R8). -/
def sext16 (b : Byte) : Addr := b.signExtend 16

end Sys2Proof
end

