-- ==== Sys2Proof/Syntax.lean ====
section
/-! DEFINITION. The instruction set as syntax: the 56 kinds (R2, R89), the 13 addressing modes (R81), the
(kind, mode) pair the decoder yields (R34), and `Instr`, one constructor per row of spec/opcode_table.json (R85). -/

namespace Sys2Proof

/-- The instruction kinds: "a closed enumeration of all defined mnemonics" (R2); readings in R11 and 48_unimplemented.md. -/
inductive Kind where
  | lda | ldx | ldy | sta | stx | sty
  | clc | sec | cli | sei | cld | sed | clv
  | bcc | bcs | beq | bne | bvc | bvs | bpl | bmi
  | tax | txa | tay | tya | tsx | txs
  | inx | iny | dex | dey
  | and | ora | eor | adc
  | jmp | nop
  | asl | bit | brk | cmp | cpx | cpy | dec | inc | jsr | lsr | pha | php | pla | plp | rol | ror | rti | rts | sbc
  deriving DecidableEq, Repr

/-- The 13 addressing modes (R81). -/
inductive Mode where
  | implied | accumulator | immediate
  | zeroPage | zeroPageX | zeroPageY
  | absolute | absoluteX | absoluteY
  | relative | indexedIndirect | indirectIndexed | absoluteIndirect
  deriving DecidableEq, Repr

/-- How many operand bytes each mode takes (R81). -/
def Mode.operandCount : Mode → Nat
  | .implied => 0
  | .accumulator => 0
  | .immediate => 1
  | .zeroPage => 1
  | .zeroPageX => 1
  | .zeroPageY => 1
  | .absolute => 2
  | .absoluteX => 2
  | .absoluteY => 2
  | .relative => 1
  | .indexedIndirect => 1
  | .indirectIndexed => 1
  | .absoluteIndirect => 2

/-- A mode together with the operand field its bytes hold (R82): `imm8`, `zp8` and `off8` are one byte, the
absolute forms hold the 16-bit value of `lo` and `hi`. -/
inductive Addressing where
  | implied
  | accumulator
  | immediate (v : Byte)
  | zeroPage (z : Byte)
  | zeroPageX (z : Byte)
  | zeroPageY (z : Byte)
  | absolute (w : Addr)
  | absoluteX (w : Addr)
  | absoluteY (w : Addr)
  | relative (off : Byte)
  | indexedIndirect (z : Byte)
  | indirectIndexed (z : Byte)
  | absoluteIndirect (w : Addr)
  deriving DecidableEq, Repr

/-- The mode of an operand form. -/
def Addressing.mode : Addressing → Mode
  | .implied => .implied
  | .accumulator => .accumulator
  | .immediate _ => .immediate
  | .zeroPage _ => .zeroPage
  | .zeroPageX _ => .zeroPageX
  | .zeroPageY _ => .zeroPageY
  | .absolute _ => .absolute
  | .absoluteX _ => .absoluteX
  | .absoluteY _ => .absoluteY
  | .relative _ => .relative
  | .indexedIndirect _ => .indexedIndirect
  | .indirectIndexed _ => .indirectIndexed
  | .absoluteIndirect _ => .absoluteIndirect

/-- The "immutable pair `(InstructionKind, AddressingMode)`" (R34). -/
structure OpCode where
  kind : Kind
  mode : Mode
  deriving DecidableEq, Repr

/-- One constructor per row of spec/opcode_table.json. The name is the mnemonic and the mode: `Acc` accumulator,
`Imm` immediate, `Zp` zero page, `ZpX`/`ZpY` zero page indexed, `Abs` absolute, `AbsX`/`AbsY` absolute indexed,
`Rel` relative, `IndX` "(zp,X)", `IndY` "(zp),Y", `Ind` "(abs)"; an implied form has the bare mnemonic. -/
inductive Instr where
  -- LDA: load A (R130)
  | ldaImm (v : Byte)
  | ldaZp (z : Byte)
  | ldaZpX (z : Byte)
  | ldaAbs (w : Addr)
  | ldaAbsX (w : Addr)
  | ldaAbsY (w : Addr)
  | ldaIndX (z : Byte)
  | ldaIndY (z : Byte)
  -- LDX: load X (R131)
  | ldxImm (v : Byte)
  | ldxZp (z : Byte)
  | ldxZpY (z : Byte)
  | ldxAbs (w : Addr)
  | ldxAbsY (w : Addr)
  -- LDY: load Y (R132)
  | ldyImm (v : Byte)
  | ldyZp (z : Byte)
  | ldyZpX (z : Byte)
  | ldyAbs (w : Addr)
  | ldyAbsX (w : Addr)
  -- STA: store A (R133)
  | staZp (z : Byte)
  | staZpX (z : Byte)
  | staAbs (w : Addr)
  | staAbsX (w : Addr)
  | staAbsY (w : Addr)
  | staIndX (z : Byte)
  | staIndY (z : Byte)
  -- STX: store X (R134)
  | stxZp (z : Byte)
  | stxZpY (z : Byte)
  | stxAbs (w : Addr)
  -- STY: store Y (R135)
  | styZp (z : Byte)
  | styZpX (z : Byte)
  | styAbs (w : Addr)
  -- CLC: clear carry (R150)
  | clc
  -- SEC: set carry (R151)
  | sec
  -- CLI: clear irq-disable (R152)
  | cli
  -- SEI: set irq-disable (R153)
  | sei
  -- CLD: clear decimal (R154)
  | cld
  -- SED: set decimal (R155)
  | sed
  -- CLV: clear overflow (R156)
  | clv
  -- BCC: branch if carry clear (R161)
  | bccRel (off : Byte)
  -- BCS: branch if carry set (R162)
  | bcsRel (off : Byte)
  -- BEQ: branch if zero set (R163)
  | beqRel (off : Byte)
  -- BNE: branch if zero clear (R164)
  | bneRel (off : Byte)
  -- BVC: branch if overflow clear (R165)
  | bvcRel (off : Byte)
  -- BVS: branch if overflow set (R166)
  | bvsRel (off : Byte)
  -- BPL: branch if negative clear (R167)
  | bplRel (off : Byte)
  -- BMI: branch if negative set (R168)
  | bmiRel (off : Byte)
  -- TAX: A to X (R170)
  | tax
  -- TXA: X to A (R171)
  | txa
  -- TAY: A to Y (R172)
  | tay
  -- TYA: Y to A (R173)
  | tya
  -- TSX: S to X (R174)
  | tsx
  -- TXS: X to S (R175)
  | txs
  -- INX: increment X (R181)
  | inx
  -- INY: increment Y (R182)
  | iny
  -- DEX: decrement X (R183)
  | dex
  -- DEY: decrement Y (R184)
  | dey
  -- AND: bitwise AND into A (R190)
  | andImm (v : Byte)
  | andZp (z : Byte)
  | andZpX (z : Byte)
  | andAbs (w : Addr)
  | andAbsX (w : Addr)
  | andAbsY (w : Addr)
  | andIndX (z : Byte)
  | andIndY (z : Byte)
  -- ORA: bitwise inclusive OR into A (R191)
  | oraImm (v : Byte)
  | oraZp (z : Byte)
  | oraZpX (z : Byte)
  | oraAbs (w : Addr)
  | oraAbsX (w : Addr)
  | oraAbsY (w : Addr)
  | oraIndX (z : Byte)
  | oraIndY (z : Byte)
  -- EOR: bitwise exclusive OR into A (R192)
  | eorImm (v : Byte)
  | eorZp (z : Byte)
  | eorZpX (z : Byte)
  | eorAbs (w : Addr)
  | eorAbsX (w : Addr)
  | eorAbsY (w : Addr)
  | eorIndX (z : Byte)
  | eorIndY (z : Byte)
  -- ADC: add with carry (R193)
  | adcImm (v : Byte)
  | adcZp (z : Byte)
  | adcZpX (z : Byte)
  | adcAbs (w : Addr)
  | adcAbsX (w : Addr)
  | adcAbsY (w : Addr)
  | adcIndX (z : Byte)
  | adcIndY (z : Byte)
  -- JMP: jump (R200)
  | jmpAbs (w : Addr)
  | jmpInd (w : Addr)
  -- NOP: no operation (R201)
  | nop
  -- ASL: arithmetic shift left (R212)
  | aslAcc
  | aslZp (z : Byte)
  | aslZpX (z : Byte)
  | aslAbs (w : Addr)
  | aslAbsX (w : Addr)
  -- BIT: test bits in memory against A (R213)
  | bitZp (z : Byte)
  | bitAbs (w : Addr)
  -- BRK: software interrupt (R214)
  | brk
  -- CMP: compare with A (R215)
  | cmpImm (v : Byte)
  | cmpZp (z : Byte)
  | cmpZpX (z : Byte)
  | cmpAbs (w : Addr)
  | cmpAbsX (w : Addr)
  | cmpAbsY (w : Addr)
  | cmpIndX (z : Byte)
  | cmpIndY (z : Byte)
  -- CPX: compare with X (R216)
  | cpxImm (v : Byte)
  | cpxZp (z : Byte)
  | cpxAbs (w : Addr)
  -- CPY: compare with Y (R217)
  | cpyImm (v : Byte)
  | cpyZp (z : Byte)
  | cpyAbs (w : Addr)
  -- DEC: decrement memory (R218)
  | decZp (z : Byte)
  | decZpX (z : Byte)
  | decAbs (w : Addr)
  | decAbsX (w : Addr)
  -- INC: increment memory (R219)
  | incZp (z : Byte)
  | incZpX (z : Byte)
  | incAbs (w : Addr)
  | incAbsX (w : Addr)
  -- JSR: jump to subroutine (R220)
  | jsrAbs (w : Addr)
  -- LSR: logical shift right (R221)
  | lsrAcc
  | lsrZp (z : Byte)
  | lsrZpX (z : Byte)
  | lsrAbs (w : Addr)
  | lsrAbsX (w : Addr)
  -- PHA: push A (R222)
  | pha
  -- PHP: push P (R223)
  | php
  -- PLA: pull A (R224)
  | pla
  -- PLP: pull P (R225)
  | plp
  -- ROL: rotate left through carry (R226)
  | rolAcc
  | rolZp (z : Byte)
  | rolZpX (z : Byte)
  | rolAbs (w : Addr)
  | rolAbsX (w : Addr)
  -- ROR: rotate right through carry (R227)
  | rorAcc
  | rorZp (z : Byte)
  | rorZpX (z : Byte)
  | rorAbs (w : Addr)
  | rorAbsX (w : Addr)
  -- RTI: return from interrupt (R228)
  | rti
  -- RTS: return from subroutine (R229)
  | rts
  -- SBC: subtract with borrow (R230)
  | sbcImm (v : Byte)
  | sbcZp (z : Byte)
  | sbcZpX (z : Byte)
  | sbcAbs (w : Addr)
  | sbcAbsX (w : Addr)
  | sbcAbsY (w : Addr)
  | sbcIndX (z : Byte)
  | sbcIndY (z : Byte)
  deriving DecidableEq, Repr

/-- The kind of an instruction. -/
def Instr.kind : Instr → Kind
  | .ldaImm _ => .lda
  | .ldaZp _ => .lda
  | .ldaZpX _ => .lda
  | .ldaAbs _ => .lda
  | .ldaAbsX _ => .lda
  | .ldaAbsY _ => .lda
  | .ldaIndX _ => .lda
  | .ldaIndY _ => .lda
  | .ldxImm _ => .ldx
  | .ldxZp _ => .ldx
  | .ldxZpY _ => .ldx
  | .ldxAbs _ => .ldx
  | .ldxAbsY _ => .ldx
  | .ldyImm _ => .ldy
  | .ldyZp _ => .ldy
  | .ldyZpX _ => .ldy
  | .ldyAbs _ => .ldy
  | .ldyAbsX _ => .ldy
  | .staZp _ => .sta
  | .staZpX _ => .sta
  | .staAbs _ => .sta
  | .staAbsX _ => .sta
  | .staAbsY _ => .sta
  | .staIndX _ => .sta
  | .staIndY _ => .sta
  | .stxZp _ => .stx
  | .stxZpY _ => .stx
  | .stxAbs _ => .stx
  | .styZp _ => .sty
  | .styZpX _ => .sty
  | .styAbs _ => .sty
  | .clc => .clc
  | .sec => .sec
  | .cli => .cli
  | .sei => .sei
  | .cld => .cld
  | .sed => .sed
  | .clv => .clv
  | .bccRel _ => .bcc
  | .bcsRel _ => .bcs
  | .beqRel _ => .beq
  | .bneRel _ => .bne
  | .bvcRel _ => .bvc
  | .bvsRel _ => .bvs
  | .bplRel _ => .bpl
  | .bmiRel _ => .bmi
  | .tax => .tax
  | .txa => .txa
  | .tay => .tay
  | .tya => .tya
  | .tsx => .tsx
  | .txs => .txs
  | .inx => .inx
  | .iny => .iny
  | .dex => .dex
  | .dey => .dey
  | .andImm _ => .and
  | .andZp _ => .and
  | .andZpX _ => .and
  | .andAbs _ => .and
  | .andAbsX _ => .and
  | .andAbsY _ => .and
  | .andIndX _ => .and
  | .andIndY _ => .and
  | .oraImm _ => .ora
  | .oraZp _ => .ora
  | .oraZpX _ => .ora
  | .oraAbs _ => .ora
  | .oraAbsX _ => .ora
  | .oraAbsY _ => .ora
  | .oraIndX _ => .ora
  | .oraIndY _ => .ora
  | .eorImm _ => .eor
  | .eorZp _ => .eor
  | .eorZpX _ => .eor
  | .eorAbs _ => .eor
  | .eorAbsX _ => .eor
  | .eorAbsY _ => .eor
  | .eorIndX _ => .eor
  | .eorIndY _ => .eor
  | .adcImm _ => .adc
  | .adcZp _ => .adc
  | .adcZpX _ => .adc
  | .adcAbs _ => .adc
  | .adcAbsX _ => .adc
  | .adcAbsY _ => .adc
  | .adcIndX _ => .adc
  | .adcIndY _ => .adc
  | .jmpAbs _ => .jmp
  | .jmpInd _ => .jmp
  | .nop => .nop
  | .aslAcc => .asl
  | .aslZp _ => .asl
  | .aslZpX _ => .asl
  | .aslAbs _ => .asl
  | .aslAbsX _ => .asl
  | .bitZp _ => .bit
  | .bitAbs _ => .bit
  | .brk => .brk
  | .cmpImm _ => .cmp
  | .cmpZp _ => .cmp
  | .cmpZpX _ => .cmp
  | .cmpAbs _ => .cmp
  | .cmpAbsX _ => .cmp
  | .cmpAbsY _ => .cmp
  | .cmpIndX _ => .cmp
  | .cmpIndY _ => .cmp
  | .cpxImm _ => .cpx
  | .cpxZp _ => .cpx
  | .cpxAbs _ => .cpx
  | .cpyImm _ => .cpy
  | .cpyZp _ => .cpy
  | .cpyAbs _ => .cpy
  | .decZp _ => .dec
  | .decZpX _ => .dec
  | .decAbs _ => .dec
  | .decAbsX _ => .dec
  | .incZp _ => .inc
  | .incZpX _ => .inc
  | .incAbs _ => .inc
  | .incAbsX _ => .inc
  | .jsrAbs _ => .jsr
  | .lsrAcc => .lsr
  | .lsrZp _ => .lsr
  | .lsrZpX _ => .lsr
  | .lsrAbs _ => .lsr
  | .lsrAbsX _ => .lsr
  | .pha => .pha
  | .php => .php
  | .pla => .pla
  | .plp => .plp
  | .rolAcc => .rol
  | .rolZp _ => .rol
  | .rolZpX _ => .rol
  | .rolAbs _ => .rol
  | .rolAbsX _ => .rol
  | .rorAcc => .ror
  | .rorZp _ => .ror
  | .rorZpX _ => .ror
  | .rorAbs _ => .ror
  | .rorAbsX _ => .ror
  | .rti => .rti
  | .rts => .rts
  | .sbcImm _ => .sbc
  | .sbcZp _ => .sbc
  | .sbcZpX _ => .sbc
  | .sbcAbs _ => .sbc
  | .sbcAbsX _ => .sbc
  | .sbcAbsY _ => .sbc
  | .sbcIndX _ => .sbc
  | .sbcIndY _ => .sbc

/-- The addressing mode of an instruction with its operand field. -/
def Instr.addressing : Instr → Addressing
  | .ldaImm v => .immediate v
  | .ldaZp z => .zeroPage z
  | .ldaZpX z => .zeroPageX z
  | .ldaAbs w => .absolute w
  | .ldaAbsX w => .absoluteX w
  | .ldaAbsY w => .absoluteY w
  | .ldaIndX z => .indexedIndirect z
  | .ldaIndY z => .indirectIndexed z
  | .ldxImm v => .immediate v
  | .ldxZp z => .zeroPage z
  | .ldxZpY z => .zeroPageY z
  | .ldxAbs w => .absolute w
  | .ldxAbsY w => .absoluteY w
  | .ldyImm v => .immediate v
  | .ldyZp z => .zeroPage z
  | .ldyZpX z => .zeroPageX z
  | .ldyAbs w => .absolute w
  | .ldyAbsX w => .absoluteX w
  | .staZp z => .zeroPage z
  | .staZpX z => .zeroPageX z
  | .staAbs w => .absolute w
  | .staAbsX w => .absoluteX w
  | .staAbsY w => .absoluteY w
  | .staIndX z => .indexedIndirect z
  | .staIndY z => .indirectIndexed z
  | .stxZp z => .zeroPage z
  | .stxZpY z => .zeroPageY z
  | .stxAbs w => .absolute w
  | .styZp z => .zeroPage z
  | .styZpX z => .zeroPageX z
  | .styAbs w => .absolute w
  | .clc => .implied
  | .sec => .implied
  | .cli => .implied
  | .sei => .implied
  | .cld => .implied
  | .sed => .implied
  | .clv => .implied
  | .bccRel off => .relative off
  | .bcsRel off => .relative off
  | .beqRel off => .relative off
  | .bneRel off => .relative off
  | .bvcRel off => .relative off
  | .bvsRel off => .relative off
  | .bplRel off => .relative off
  | .bmiRel off => .relative off
  | .tax => .implied
  | .txa => .implied
  | .tay => .implied
  | .tya => .implied
  | .tsx => .implied
  | .txs => .implied
  | .inx => .implied
  | .iny => .implied
  | .dex => .implied
  | .dey => .implied
  | .andImm v => .immediate v
  | .andZp z => .zeroPage z
  | .andZpX z => .zeroPageX z
  | .andAbs w => .absolute w
  | .andAbsX w => .absoluteX w
  | .andAbsY w => .absoluteY w
  | .andIndX z => .indexedIndirect z
  | .andIndY z => .indirectIndexed z
  | .oraImm v => .immediate v
  | .oraZp z => .zeroPage z
  | .oraZpX z => .zeroPageX z
  | .oraAbs w => .absolute w
  | .oraAbsX w => .absoluteX w
  | .oraAbsY w => .absoluteY w
  | .oraIndX z => .indexedIndirect z
  | .oraIndY z => .indirectIndexed z
  | .eorImm v => .immediate v
  | .eorZp z => .zeroPage z
  | .eorZpX z => .zeroPageX z
  | .eorAbs w => .absolute w
  | .eorAbsX w => .absoluteX w
  | .eorAbsY w => .absoluteY w
  | .eorIndX z => .indexedIndirect z
  | .eorIndY z => .indirectIndexed z
  | .adcImm v => .immediate v
  | .adcZp z => .zeroPage z
  | .adcZpX z => .zeroPageX z
  | .adcAbs w => .absolute w
  | .adcAbsX w => .absoluteX w
  | .adcAbsY w => .absoluteY w
  | .adcIndX z => .indexedIndirect z
  | .adcIndY z => .indirectIndexed z
  | .jmpAbs w => .absolute w
  | .jmpInd w => .absoluteIndirect w
  | .nop => .implied
  | .aslAcc => .accumulator
  | .aslZp z => .zeroPage z
  | .aslZpX z => .zeroPageX z
  | .aslAbs w => .absolute w
  | .aslAbsX w => .absoluteX w
  | .bitZp z => .zeroPage z
  | .bitAbs w => .absolute w
  | .brk => .implied
  | .cmpImm v => .immediate v
  | .cmpZp z => .zeroPage z
  | .cmpZpX z => .zeroPageX z
  | .cmpAbs w => .absolute w
  | .cmpAbsX w => .absoluteX w
  | .cmpAbsY w => .absoluteY w
  | .cmpIndX z => .indexedIndirect z
  | .cmpIndY z => .indirectIndexed z
  | .cpxImm v => .immediate v
  | .cpxZp z => .zeroPage z
  | .cpxAbs w => .absolute w
  | .cpyImm v => .immediate v
  | .cpyZp z => .zeroPage z
  | .cpyAbs w => .absolute w
  | .decZp z => .zeroPage z
  | .decZpX z => .zeroPageX z
  | .decAbs w => .absolute w
  | .decAbsX w => .absoluteX w
  | .incZp z => .zeroPage z
  | .incZpX z => .zeroPageX z
  | .incAbs w => .absolute w
  | .incAbsX w => .absoluteX w
  | .jsrAbs w => .absolute w
  | .lsrAcc => .accumulator
  | .lsrZp z => .zeroPage z
  | .lsrZpX z => .zeroPageX z
  | .lsrAbs w => .absolute w
  | .lsrAbsX w => .absoluteX w
  | .pha => .implied
  | .php => .implied
  | .pla => .implied
  | .plp => .implied
  | .rolAcc => .accumulator
  | .rolZp z => .zeroPage z
  | .rolZpX z => .zeroPageX z
  | .rolAbs w => .absolute w
  | .rolAbsX w => .absoluteX w
  | .rorAcc => .accumulator
  | .rorZp z => .zeroPage z
  | .rorZpX z => .zeroPageX z
  | .rorAbs w => .absolute w
  | .rorAbsX w => .absoluteX w
  | .rti => .implied
  | .rts => .implied
  | .sbcImm v => .immediate v
  | .sbcZp z => .zeroPage z
  | .sbcZpX z => .zeroPageX z
  | .sbcAbs w => .absolute w
  | .sbcAbsX w => .absoluteX w
  | .sbcAbsY w => .absoluteY w
  | .sbcIndX z => .indexedIndirect z
  | .sbcIndY z => .indirectIndexed z

/-- The addressing mode of an instruction. -/
def Instr.mode (i : Instr) : Mode := i.addressing.mode

/-- The (kind, mode) pair of an instruction (R34). -/
def Instr.op (i : Instr) : OpCode := ⟨i.kind, i.mode⟩

/-- Instruction length in bytes, `1 + operand_count(mode)` (R80). -/
def Instr.length (i : Instr) : Nat := 1 + i.mode.operandCount

end Sys2Proof
end

