-- ==== Sys2Proof/WellFormed.lean ====
section
/-! DEFINITION. Well-formedness: the modes each kind takes, written from R89 without the opcode map. The operand
fields need no check, since their types have the widths of R82. -/

namespace Sys2Proof

/-- The modes each kind takes (R89). -/
def Kind.modes : Kind → List Mode
  | .lda => [.immediate, .zeroPage, .zeroPageX, .absolute, .absoluteX, .absoluteY, .indexedIndirect, .indirectIndexed]
  | .ldx => [.immediate, .zeroPage, .zeroPageY, .absolute, .absoluteY]
  | .ldy => [.immediate, .zeroPage, .zeroPageX, .absolute, .absoluteX]
  | .sta => [.zeroPage, .zeroPageX, .absolute, .absoluteX, .absoluteY, .indexedIndirect, .indirectIndexed]
  | .stx => [.zeroPage, .zeroPageY, .absolute]
  | .sty => [.zeroPage, .zeroPageX, .absolute]
  | .clc => [.implied]
  | .sec => [.implied]
  | .cli => [.implied]
  | .sei => [.implied]
  | .cld => [.implied]
  | .sed => [.implied]
  | .clv => [.implied]
  | .bcc => [.relative]
  | .bcs => [.relative]
  | .beq => [.relative]
  | .bne => [.relative]
  | .bvc => [.relative]
  | .bvs => [.relative]
  | .bpl => [.relative]
  | .bmi => [.relative]
  | .tax => [.implied]
  | .txa => [.implied]
  | .tay => [.implied]
  | .tya => [.implied]
  | .tsx => [.implied]
  | .txs => [.implied]
  | .inx => [.implied]
  | .iny => [.implied]
  | .dex => [.implied]
  | .dey => [.implied]
  | .and => [.immediate, .zeroPage, .zeroPageX, .absolute, .absoluteX, .absoluteY, .indexedIndirect, .indirectIndexed]
  | .ora => [.immediate, .zeroPage, .zeroPageX, .absolute, .absoluteX, .absoluteY, .indexedIndirect, .indirectIndexed]
  | .eor => [.immediate, .zeroPage, .zeroPageX, .absolute, .absoluteX, .absoluteY, .indexedIndirect, .indirectIndexed]
  | .adc => [.immediate, .zeroPage, .zeroPageX, .absolute, .absoluteX, .absoluteY, .indexedIndirect, .indirectIndexed]
  | .jmp => [.absolute, .absoluteIndirect]
  | .nop => [.implied]
  | .asl => [.accumulator, .zeroPage, .zeroPageX, .absolute, .absoluteX]
  | .bit => [.zeroPage, .absolute]
  | .brk => [.implied]
  | .cmp => [.immediate, .zeroPage, .zeroPageX, .absolute, .absoluteX, .absoluteY, .indexedIndirect, .indirectIndexed]
  | .cpx => [.immediate, .zeroPage, .absolute]
  | .cpy => [.immediate, .zeroPage, .absolute]
  | .dec => [.zeroPage, .zeroPageX, .absolute, .absoluteX]
  | .inc => [.zeroPage, .zeroPageX, .absolute, .absoluteX]
  | .jsr => [.absolute]
  | .lsr => [.accumulator, .zeroPage, .zeroPageX, .absolute, .absoluteX]
  | .pha => [.implied]
  | .php => [.implied]
  | .pla => [.implied]
  | .plp => [.implied]
  | .rol => [.accumulator, .zeroPage, .zeroPageX, .absolute, .absoluteX]
  | .ror => [.accumulator, .zeroPage, .zeroPageX, .absolute, .absoluteX]
  | .rti => [.implied]
  | .rts => [.implied]
  | .sbc => [.immediate, .zeroPage, .zeroPageX, .absolute, .absoluteX, .absoluteY, .indexedIndirect, .indirectIndexed]

/-- The (kind, mode) pair is a row of the table. -/
def OpCode.wellFormed (o : OpCode) : Bool := o.kind.modes.contains o.mode

/-- The instruction's pair is a row of the table. -/
def Instr.wellFormed (i : Instr) : Bool := i.op.wellFormed

end Sys2Proof
end

