-- ==== Sys2Proof/Decode.lean ====
section
/-! DEFINITION. The opcode decoder and the encoder (30_encoding.md): the opcode map of R85, decoding of a byte
list, total and rejecting by name, the encoder written from the encodings of R89 and R82, and the host's reading
of an opcode-table word. -/

namespace Sys2Proof

/-- A row of the opcode map: how many operand bytes follow and which instruction they make. -/
inductive Row where
  | op0 (i : Instr)
  | op1 (f : Byte → Instr)
  | op2 (f : Addr → Instr)

/-! The opcode map of R85, one definition per line (high nibble), by low nibble; a byte that no line names is undefined
(R86). -/

/-- Line 0x of R85. -/
def mapLine0 (lo : Nat) : Option Row :=
  match lo with
  | 0x0 => some (.op0 .brk)
  | 0x1 => some (.op1 .oraIndX)
  | 0x5 => some (.op1 .oraZp)
  | 0x6 => some (.op1 .aslZp)
  | 0x8 => some (.op0 .php)
  | 0x9 => some (.op1 .oraImm)
  | 0xA => some (.op0 .aslAcc)
  | 0xD => some (.op2 .oraAbs)
  | 0xE => some (.op2 .aslAbs)
  | _ => none

/-- Line 1x of R85. -/
def mapLine1 (lo : Nat) : Option Row :=
  match lo with
  | 0x0 => some (.op1 .bplRel)
  | 0x1 => some (.op1 .oraIndY)
  | 0x5 => some (.op1 .oraZpX)
  | 0x6 => some (.op1 .aslZpX)
  | 0x8 => some (.op0 .clc)
  | 0x9 => some (.op2 .oraAbsY)
  | 0xD => some (.op2 .oraAbsX)
  | 0xE => some (.op2 .aslAbsX)
  | _ => none

/-- Line 2x of R85. -/
def mapLine2 (lo : Nat) : Option Row :=
  match lo with
  | 0x0 => some (.op2 .jsrAbs)
  | 0x1 => some (.op1 .andIndX)
  | 0x4 => some (.op1 .bitZp)
  | 0x5 => some (.op1 .andZp)
  | 0x6 => some (.op1 .rolZp)
  | 0x8 => some (.op0 .plp)
  | 0x9 => some (.op1 .andImm)
  | 0xA => some (.op0 .rolAcc)
  | 0xC => some (.op2 .bitAbs)
  | 0xD => some (.op2 .andAbs)
  | 0xE => some (.op2 .rolAbs)
  | _ => none

/-- Line 3x of R85. -/
def mapLine3 (lo : Nat) : Option Row :=
  match lo with
  | 0x0 => some (.op1 .bmiRel)
  | 0x1 => some (.op1 .andIndY)
  | 0x5 => some (.op1 .andZpX)
  | 0x6 => some (.op1 .rolZpX)
  | 0x8 => some (.op0 .sec)
  | 0x9 => some (.op2 .andAbsY)
  | 0xD => some (.op2 .andAbsX)
  | 0xE => some (.op2 .rolAbsX)
  | _ => none

/-- Line 4x of R85. -/
def mapLine4 (lo : Nat) : Option Row :=
  match lo with
  | 0x0 => some (.op0 .rti)
  | 0x1 => some (.op1 .eorIndX)
  | 0x5 => some (.op1 .eorZp)
  | 0x6 => some (.op1 .lsrZp)
  | 0x8 => some (.op0 .pha)
  | 0x9 => some (.op1 .eorImm)
  | 0xA => some (.op0 .lsrAcc)
  | 0xC => some (.op2 .jmpAbs)
  | 0xD => some (.op2 .eorAbs)
  | 0xE => some (.op2 .lsrAbs)
  | _ => none

/-- Line 5x of R85. -/
def mapLine5 (lo : Nat) : Option Row :=
  match lo with
  | 0x0 => some (.op1 .bvcRel)
  | 0x1 => some (.op1 .eorIndY)
  | 0x5 => some (.op1 .eorZpX)
  | 0x6 => some (.op1 .lsrZpX)
  | 0x8 => some (.op0 .cli)
  | 0x9 => some (.op2 .eorAbsY)
  | 0xD => some (.op2 .eorAbsX)
  | 0xE => some (.op2 .lsrAbsX)
  | _ => none

/-- Line 6x of R85. -/
def mapLine6 (lo : Nat) : Option Row :=
  match lo with
  | 0x0 => some (.op0 .rts)
  | 0x1 => some (.op1 .adcIndX)
  | 0x5 => some (.op1 .adcZp)
  | 0x6 => some (.op1 .rorZp)
  | 0x8 => some (.op0 .pla)
  | 0x9 => some (.op1 .adcImm)
  | 0xA => some (.op0 .rorAcc)
  | 0xC => some (.op2 .jmpInd)
  | 0xD => some (.op2 .adcAbs)
  | 0xE => some (.op2 .rorAbs)
  | _ => none

/-- Line 7x of R85. -/
def mapLine7 (lo : Nat) : Option Row :=
  match lo with
  | 0x0 => some (.op1 .bvsRel)
  | 0x1 => some (.op1 .adcIndY)
  | 0x5 => some (.op1 .adcZpX)
  | 0x6 => some (.op1 .rorZpX)
  | 0x8 => some (.op0 .sei)
  | 0x9 => some (.op2 .adcAbsY)
  | 0xD => some (.op2 .adcAbsX)
  | 0xE => some (.op2 .rorAbsX)
  | _ => none

/-- Line 8x of R85. -/
def mapLine8 (lo : Nat) : Option Row :=
  match lo with
  | 0x1 => some (.op1 .staIndX)
  | 0x4 => some (.op1 .styZp)
  | 0x5 => some (.op1 .staZp)
  | 0x6 => some (.op1 .stxZp)
  | 0x8 => some (.op0 .dey)
  | 0xA => some (.op0 .txa)
  | 0xC => some (.op2 .styAbs)
  | 0xD => some (.op2 .staAbs)
  | 0xE => some (.op2 .stxAbs)
  | _ => none

/-- Line 9x of R85. -/
def mapLine9 (lo : Nat) : Option Row :=
  match lo with
  | 0x0 => some (.op1 .bccRel)
  | 0x1 => some (.op1 .staIndY)
  | 0x4 => some (.op1 .styZpX)
  | 0x5 => some (.op1 .staZpX)
  | 0x6 => some (.op1 .stxZpY)
  | 0x8 => some (.op0 .tya)
  | 0x9 => some (.op2 .staAbsY)
  | 0xA => some (.op0 .txs)
  | 0xD => some (.op2 .staAbsX)
  | _ => none

/-- Line Ax of R85. -/
def mapLineA (lo : Nat) : Option Row :=
  match lo with
  | 0x0 => some (.op1 .ldyImm)
  | 0x1 => some (.op1 .ldaIndX)
  | 0x2 => some (.op1 .ldxImm)
  | 0x4 => some (.op1 .ldyZp)
  | 0x5 => some (.op1 .ldaZp)
  | 0x6 => some (.op1 .ldxZp)
  | 0x8 => some (.op0 .tay)
  | 0x9 => some (.op1 .ldaImm)
  | 0xA => some (.op0 .tax)
  | 0xC => some (.op2 .ldyAbs)
  | 0xD => some (.op2 .ldaAbs)
  | 0xE => some (.op2 .ldxAbs)
  | _ => none

/-- Line Bx of R85. -/
def mapLineB (lo : Nat) : Option Row :=
  match lo with
  | 0x0 => some (.op1 .bcsRel)
  | 0x1 => some (.op1 .ldaIndY)
  | 0x4 => some (.op1 .ldyZpX)
  | 0x5 => some (.op1 .ldaZpX)
  | 0x6 => some (.op1 .ldxZpY)
  | 0x8 => some (.op0 .clv)
  | 0x9 => some (.op2 .ldaAbsY)
  | 0xA => some (.op0 .tsx)
  | 0xC => some (.op2 .ldyAbsX)
  | 0xD => some (.op2 .ldaAbsX)
  | 0xE => some (.op2 .ldxAbsY)
  | _ => none

/-- Line Cx of R85. -/
def mapLineC (lo : Nat) : Option Row :=
  match lo with
  | 0x0 => some (.op1 .cpyImm)
  | 0x1 => some (.op1 .cmpIndX)
  | 0x4 => some (.op1 .cpyZp)
  | 0x5 => some (.op1 .cmpZp)
  | 0x6 => some (.op1 .decZp)
  | 0x8 => some (.op0 .iny)
  | 0x9 => some (.op1 .cmpImm)
  | 0xA => some (.op0 .dex)
  | 0xC => some (.op2 .cpyAbs)
  | 0xD => some (.op2 .cmpAbs)
  | 0xE => some (.op2 .decAbs)
  | _ => none

/-- Line Dx of R85. -/
def mapLineD (lo : Nat) : Option Row :=
  match lo with
  | 0x0 => some (.op1 .bneRel)
  | 0x1 => some (.op1 .cmpIndY)
  | 0x5 => some (.op1 .cmpZpX)
  | 0x6 => some (.op1 .decZpX)
  | 0x8 => some (.op0 .cld)
  | 0x9 => some (.op2 .cmpAbsY)
  | 0xD => some (.op2 .cmpAbsX)
  | 0xE => some (.op2 .decAbsX)
  | _ => none

/-- Line Ex of R85. -/
def mapLineE (lo : Nat) : Option Row :=
  match lo with
  | 0x0 => some (.op1 .cpxImm)
  | 0x1 => some (.op1 .sbcIndX)
  | 0x4 => some (.op1 .cpxZp)
  | 0x5 => some (.op1 .sbcZp)
  | 0x6 => some (.op1 .incZp)
  | 0x8 => some (.op0 .inx)
  | 0x9 => some (.op1 .sbcImm)
  | 0xA => some (.op0 .nop)
  | 0xC => some (.op2 .cpxAbs)
  | 0xD => some (.op2 .sbcAbs)
  | 0xE => some (.op2 .incAbs)
  | _ => none

/-- Line Fx of R85. -/
def mapLineF (lo : Nat) : Option Row :=
  match lo with
  | 0x0 => some (.op1 .beqRel)
  | 0x1 => some (.op1 .sbcIndY)
  | 0x5 => some (.op1 .sbcZpX)
  | 0x6 => some (.op1 .incZpX)
  | 0x8 => some (.op0 .sed)
  | 0x9 => some (.op2 .sbcAbsY)
  | 0xD => some (.op2 .sbcAbsX)
  | 0xE => some (.op2 .incAbsX)
  | _ => none

/-- The opcode map of R85; `none` is an undefined byte (R86). -/
def opcodeRow (opcode : Byte) : Option Row :=
  let lo := opcode.toNat % 16
  match opcode.toNat / 16 with
  | 0x0 => mapLine0 lo
  | 0x1 => mapLine1 lo
  | 0x2 => mapLine2 lo
  | 0x3 => mapLine3 lo
  | 0x4 => mapLine4 lo
  | 0x5 => mapLine5 lo
  | 0x6 => mapLine6 lo
  | 0x7 => mapLine7 lo
  | 0x8 => mapLine8 lo
  | 0x9 => mapLine9 lo
  | 0xA => mapLineA lo
  | 0xB => mapLineB lo
  | 0xC => mapLineC lo
  | 0xD => mapLineD lo
  | 0xE => mapLineE lo
  | 0xF => mapLineF lo
  | _ => none

/-- The instruction a row gives when every operand byte is 0: its kind and mode are the row's. -/
def Row.bare : Row → Instr
  | .op0 i => i
  | .op1 f => f 0
  | .op2 f => f 0

/-- "`decode(byte) -> Option<OpCode>`" (R84), given by the map of R85. -/
def decodeOpcode (opcode : Byte) : Option OpCode := (opcodeRow opcode).map (fun r => r.bare.op)

/-- Why a byte list is no instruction. -/
inductive DecodeReject where
  /-- There is no byte at all. -/
  | noBytes
  /-- The first byte is one of the 105 undefined bytes (R86). -/
  | undefinedOpcode (opcode : Byte)
  /-- Fewer operand bytes follow than the mode takes (R81). -/
  | missingOperandBytes (opcode : Byte)
  deriving DecidableEq, Repr

/-- The instruction at the head of a byte list, with the rest of the list (R80, R90; little-endian operand R67). -/
def decode : List Byte → Except DecodeReject (Instr × List Byte)
  | [] => .error .noBytes
  | opcode :: rest =>
    match opcodeRow opcode with
    | none => .error (.undefinedOpcode opcode)
    | some (.op0 i) => .ok (i, rest)
    | some (.op1 f) =>
      match rest with
      | v :: rest' => .ok (f v, rest')
      | [] => .error (.missingOperandBytes opcode)
    | some (.op2 f) =>
      match rest with
      | lo :: hi :: rest' => .ok (f (concat hi lo), rest')
      | _ => .error (.missingOperandBytes opcode)

/-- The opcode byte of an instruction, from the table of R89. -/
def Instr.opcodeByte : Instr → Byte
  | .ldaImm _ => 0xA9
  | .ldaZp _ => 0xA5
  | .ldaZpX _ => 0xB5
  | .ldaAbs _ => 0xAD
  | .ldaAbsX _ => 0xBD
  | .ldaAbsY _ => 0xB9
  | .ldaIndX _ => 0xA1
  | .ldaIndY _ => 0xB1
  | .ldxImm _ => 0xA2
  | .ldxZp _ => 0xA6
  | .ldxZpY _ => 0xB6
  | .ldxAbs _ => 0xAE
  | .ldxAbsY _ => 0xBE
  | .ldyImm _ => 0xA0
  | .ldyZp _ => 0xA4
  | .ldyZpX _ => 0xB4
  | .ldyAbs _ => 0xAC
  | .ldyAbsX _ => 0xBC
  | .staZp _ => 0x85
  | .staZpX _ => 0x95
  | .staAbs _ => 0x8D
  | .staAbsX _ => 0x9D
  | .staAbsY _ => 0x99
  | .staIndX _ => 0x81
  | .staIndY _ => 0x91
  | .stxZp _ => 0x86
  | .stxZpY _ => 0x96
  | .stxAbs _ => 0x8E
  | .styZp _ => 0x84
  | .styZpX _ => 0x94
  | .styAbs _ => 0x8C
  | .clc => 0x18
  | .sec => 0x38
  | .cli => 0x58
  | .sei => 0x78
  | .cld => 0xD8
  | .sed => 0xF8
  | .clv => 0xB8
  | .bccRel _ => 0x90
  | .bcsRel _ => 0xB0
  | .beqRel _ => 0xF0
  | .bneRel _ => 0xD0
  | .bvcRel _ => 0x50
  | .bvsRel _ => 0x70
  | .bplRel _ => 0x10
  | .bmiRel _ => 0x30
  | .tax => 0xAA
  | .txa => 0x8A
  | .tay => 0xA8
  | .tya => 0x98
  | .tsx => 0xBA
  | .txs => 0x9A
  | .inx => 0xE8
  | .iny => 0xC8
  | .dex => 0xCA
  | .dey => 0x88
  | .andImm _ => 0x29
  | .andZp _ => 0x25
  | .andZpX _ => 0x35
  | .andAbs _ => 0x2D
  | .andAbsX _ => 0x3D
  | .andAbsY _ => 0x39
  | .andIndX _ => 0x21
  | .andIndY _ => 0x31
  | .oraImm _ => 0x09
  | .oraZp _ => 0x05
  | .oraZpX _ => 0x15
  | .oraAbs _ => 0x0D
  | .oraAbsX _ => 0x1D
  | .oraAbsY _ => 0x19
  | .oraIndX _ => 0x01
  | .oraIndY _ => 0x11
  | .eorImm _ => 0x49
  | .eorZp _ => 0x45
  | .eorZpX _ => 0x55
  | .eorAbs _ => 0x4D
  | .eorAbsX _ => 0x5D
  | .eorAbsY _ => 0x59
  | .eorIndX _ => 0x41
  | .eorIndY _ => 0x51
  | .adcImm _ => 0x69
  | .adcZp _ => 0x65
  | .adcZpX _ => 0x75
  | .adcAbs _ => 0x6D
  | .adcAbsX _ => 0x7D
  | .adcAbsY _ => 0x79
  | .adcIndX _ => 0x61
  | .adcIndY _ => 0x71
  | .jmpAbs _ => 0x4C
  | .jmpInd _ => 0x6C
  | .nop => 0xEA
  | .aslAcc => 0x0A
  | .aslZp _ => 0x06
  | .aslZpX _ => 0x16
  | .aslAbs _ => 0x0E
  | .aslAbsX _ => 0x1E
  | .bitZp _ => 0x24
  | .bitAbs _ => 0x2C
  | .brk => 0x00
  | .cmpImm _ => 0xC9
  | .cmpZp _ => 0xC5
  | .cmpZpX _ => 0xD5
  | .cmpAbs _ => 0xCD
  | .cmpAbsX _ => 0xDD
  | .cmpAbsY _ => 0xD9
  | .cmpIndX _ => 0xC1
  | .cmpIndY _ => 0xD1
  | .cpxImm _ => 0xE0
  | .cpxZp _ => 0xE4
  | .cpxAbs _ => 0xEC
  | .cpyImm _ => 0xC0
  | .cpyZp _ => 0xC4
  | .cpyAbs _ => 0xCC
  | .decZp _ => 0xC6
  | .decZpX _ => 0xD6
  | .decAbs _ => 0xCE
  | .decAbsX _ => 0xDE
  | .incZp _ => 0xE6
  | .incZpX _ => 0xF6
  | .incAbs _ => 0xEE
  | .incAbsX _ => 0xFE
  | .jsrAbs _ => 0x20
  | .lsrAcc => 0x4A
  | .lsrZp _ => 0x46
  | .lsrZpX _ => 0x56
  | .lsrAbs _ => 0x4E
  | .lsrAbsX _ => 0x5E
  | .pha => 0x48
  | .php => 0x08
  | .pla => 0x68
  | .plp => 0x28
  | .rolAcc => 0x2A
  | .rolZp _ => 0x26
  | .rolZpX _ => 0x36
  | .rolAbs _ => 0x2E
  | .rolAbsX _ => 0x3E
  | .rorAcc => 0x6A
  | .rorZp _ => 0x66
  | .rorZpX _ => 0x76
  | .rorAbs _ => 0x6E
  | .rorAbsX _ => 0x7E
  | .rti => 0x40
  | .rts => 0x60
  | .sbcImm _ => 0xE9
  | .sbcZp _ => 0xE5
  | .sbcZpX _ => 0xF5
  | .sbcAbs _ => 0xED
  | .sbcAbsX _ => 0xFD
  | .sbcAbsY _ => 0xF9
  | .sbcIndX _ => 0xE1
  | .sbcIndY _ => 0xF1

/-- The operand bytes in address order (R82): `imm8`, `zp8` or `off8`, or `lo` then `hi`. -/
def Addressing.bytes : Addressing → List Byte
  | .implied => []
  | .accumulator => []
  | .immediate v => [v]
  | .zeroPage z => [z]
  | .zeroPageX z => [z]
  | .zeroPageY z => [z]
  | .absolute w => [loByte w, hiByte w]
  | .absoluteX w => [loByte w, hiByte w]
  | .absoluteY w => [loByte w, hiByte w]
  | .relative off => [off]
  | .indexedIndirect z => [z]
  | .indirectIndexed z => [z]
  | .absoluteIndirect w => [loByte w, hiByte w]

/-- The bytes of an instruction in address order (R80, R82). -/
def encode (i : Instr) : List Byte := i.opcodeByte :: i.addressing.bytes

/-- The three bytes of an opcode-table word: byte `k` is bits `8k+7..8k`, and every bit at or above `nbits` is 0. -/
def tableBytes (nbits w : Nat) : List Byte :=
  let v := w % 2 ^ nbits
  [BitVec.ofNat 8 v, BitVec.ofNat 8 (v / 256), BitVec.ofNat 8 (v / 65536)]

/-- The instruction the decoder reads from an opcode-table word of `nbits` bits. -/
def decodeTableWord (nbits w : Nat) : Option Instr :=
  match decode (tableBytes nbits w) with
  | .ok (i, _) => some i
  | .error _ => none

end Sys2Proof
end

