-- ==== Sys2Proof/Config.lean ====
section
/-! DEFINITION. What is fixed for a machine (the parameters of R6), the devices on the bus, and the one free value
`dev_read`. -/

namespace Sys2Proof

/-- The devices behind the bus windows, "external collaborators" (R63, R265). -/
inductive Device where
  | ppu | apu | pad | dma
  deriving DecidableEq, Repr

/-- A device access, `DevRead(dev, off)` or `DevWrite(dev, off, v)` (R63). -/
inductive DevEvent where
  | read (dev : Device) (off : Addr)
  | write (dev : Device) (off : Addr) (v : Byte)
  deriving DecidableEq, Repr

/-- The configuration of a machine (R6, R269). `ram_init` is an argument of power-on and `stop_addrs` of the
observation, so neither stands here. -/
structure Config where
  /-- The flat program-ROM byte array, held sparsely: an unlisted offset holds 0x00 (R66). -/
  prg : Memory
  /-- The length of the program-ROM array (R60). -/
  prgLen : Nat
  /-- False: INX INY DEX DEY saturate; true: they wrap (R180). -/
  incdecWrap : Bool
  /-- False: the 19 kinds of 48_unimplemented.md raise UnimplementedInstruction; true: they execute (R210). -/
  fullIsa : Bool
  deriving DecidableEq, Repr

/-- The byte a device read returns, `dev_read(history, dev, off)`: "any byte, under no law" (R63). A free value:
nothing constrains it [log 4]. -/
opaque Config.devRead : List DevEvent → Device → Addr → Byte

end Sys2Proof
end

