-- ==== Sys2Proof/Machine/Memory.lean ====
section
/-! DEFINITION. Sparse memory in its canonical form, the program ROM (R59, R60, R66) and the default configuration. -/

namespace Sys2Proof

/-- What an offset that a memory does not list reads as: 0x00 [log 3, log 2]. -/
def Memory.unlisted : Byte := 0x00

/-- The byte at an offset. -/
def Memory.read : Memory → Nat → Byte
  | [], _ => Memory.unlisted
  | (j, w) :: m, k => if j = k then w else Memory.read m k

/-- The memory with one byte replaced; writing the unlisted byte removes the entry. -/
def Memory.write : Memory → Nat → Byte → Memory
  | [], k, v => if v = Memory.unlisted then [] else [(k, v)]
  | (j, w) :: m, k, v =>
    if k < j then (if v = Memory.unlisted then (j, w) :: m else (k, v) :: (j, w) :: m)
    else if k = j then (if v = Memory.unlisted then m else (k, v) :: m)
    else (j, w) :: Memory.write m k v

/-- The canonical form: offsets strictly rising, and no entry equal to the unlisted byte. -/
abbrev Memory.wf (m : Memory) : Prop :=
  m.Pairwise (fun c d => c.1 < d.1) ∧ ∀ c ∈ m, c.2 ≠ Memory.unlisted

/-- Every listed offset lies below a bound. -/
abbrev Memory.below (m : Memory) (n : Nat) : Prop := ∀ c ∈ m, c.1 < n

/-- "`prg_len = 0x4000` or `prg_len >= 0x8000`": the lengths that are admitted (R60). -/
def Config.admitted (c : Config) : Bool := c.prgLen == 0x4000 || decide (0x8000 ≤ c.prgLen)

/-- The offset of a ROM address in the image: images of at most 16 KB are mirrored (R59). -/
def romOffset (prgLen : Nat) (addr : Addr) : Nat :=
  if prgLen ≤ 0x4000 then ((addr - 0x8000) &&& 0x3FFF).toNat else (addr - 0x8000).toNat

/-- The image byte at an address of the ROM window (R59). -/
def Config.romRead (c : Config) (addr : Addr) : Byte := c.prg.read (romOffset c.prgLen addr)

/-- The little-endian word at 0xFFFC/0xFFFD, the RESET vector (R78, R281); both bytes are image bytes. -/
def Config.resetVector (c : Config) : Addr := concat (c.romRead 0xFFFD) (c.romRead 0xFFFC)

/-- The configuration of `State.reset`: the spec's defaults of `incdec_wrap` and `full_isa` (R6), and a 16 KB image
of zeros (DESIGN CHOICE: the image is a parameter) [log 2]. -/
def Config.default : Config := { prg := [], prgLen := 0x4000, incdecWrap := false, fullIsa := false }

end Sys2Proof
end

