-- ==== Sys2Proof/Machine/State.lean ====
section
/-! DEFINITION. The machine's state as plain data (10_state.md), the reasons a step can stop, the power-on state and
the state after reset. -/

namespace Sys2Proof.Machine

/-- The status register `P`: "8 booleans — negative, overflow, reserved (always true), break, decimal,
irq-disable, zero, carry" (R28). -/
structure StatusRegister where
  /-- `P.N`, negative. -/
  n : Bool
  /-- `P.V`, overflow. -/
  v : Bool
  /-- `P.R`, reserved: hardwired true (R29) [log 8]. -/
  r : Bool
  /-- `P.B`, break: written by no instruction (R31). -/
  b : Bool
  /-- `P.D`, decimal: no effect on arithmetic (R194). -/
  d : Bool
  /-- `P.I`, irq-disable: masks nothing (R259). -/
  i : Bool
  /-- `P.Z`, zero. -/
  z : Bool
  /-- `P.C`, carry. -/
  c : Bool
  deriving DecidableEq, Repr

/-- The three faults of the CORE with their recorded info (R250). A step that raises one records it in the run status
of its next state; a later step from that state, which the spec says does not exist (R256), answers `fault` with
the recorded value. All three are safe: the model stops where the spec's machine stops [log 1]. -/
inductive Fault where
  /-- The decode phase of a step whose opcode byte is undefined (R102, R251); raised by `cycle`. Safe. -/
  | decodeFailure (opcode : Byte) (fetchAddr : Addr)
  /-- The execute phase of one of the 19 kinds when `full_isa` is false (R210, R252); raised by `execute`. Safe. -/
  | unimplementedInstruction (kind : Kind) (mode : Mode) (opcode : Byte) (fetchAddr : Addr)
  /-- An operand of a shape the kind does not accept (R253); checked by `execute`, raised by no instruction of the
  table. Safe. -/
  | operandShapeMismatch (kind : Kind) (mode : Mode)
  deriving DecidableEq, Repr

/-- Why no step is defined. -/
inductive Refusal where
  /-- An instruction that has no meaning yet; no arm of `exec` answers it. Safe. -/
  | notModelled (mnemonic : String)
  /-- "`Refused(RomLength)`": the image length is not admitted, so no machine exists (R60); answered by `step` and
  `configure`. Safe. -/
  | romLength
  deriving DecidableEq, Repr

/-- "`status ∈ {Running, Faulted(code, info)}`" (R36). -/
inductive RunStatus where
  | running
  | faulted (f : Fault)
  deriving DecidableEq, Repr

/-- The state of the machine: the register file (R24), P (R28), the run status (R36), RAM (R64), the device history
(R63) and the configuration it runs under (R6) [log 2]. -/
structure State where
  /-- The accumulator `A` (R20). -/
  a : Byte
  /-- The index register `X` (R21). -/
  x : Byte
  /-- The index register `Y` (R22). -/
  y : Byte
  /-- The stack pointer `S` (R23). -/
  sp : Byte
  /-- The program counter (R25). -/
  pc : Addr
  /-- The status register (R28). -/
  p : StatusRegister
  /-- The run status (R36). -/
  status : RunStatus
  /-- The 2048 bytes of RAM by local offset (R64). -/
  ram : Memory
  /-- The device events so far, oldest first (R63). -/
  history : List DevEvent
  /-- The configuration; no step changes it. -/
  cfg : Config
  deriving DecidableEq, Repr

/-- The three outcomes of a step of this machine. -/
abbrev Result := Host.Outcome State Fault Refusal

/-- Power-on (R280): every register 0 but `P.R`, status Running, RAM = `ram_init`, the vector not read. -/
def State.powerOn (cfg : Config) (ramInit : Memory) : State :=
  { a := 0x00, x := 0x00, y := 0x00, sp := 0x00, pc := 0x0000,
    p := { n := false, v := false, r := true, b := false, d := false, i := false, z := false, c := false },
    status := .running, ram := ramInit, history := [], cfg := cfg }

/-- The machine right after reset (R39, R281): power-on with the default configuration and RAM listing nothing, then
pc loaded from the RESET vector [log 2, log 3]. -/
def State.reset : State :=
  { State.powerOn Config.default [] with pc := Config.default.resetVector }

end Sys2Proof.Machine
end

