-- ==== Sys2Proof/Machine/Flags.lean ====
section
/-! DEFINITION. Every flag computation of the spec: the setters (R28, R29), SetZN (R121), add and subtract with
carry (R193, R230), compare (R243), the packed byte of P (R32) and its restore (R225), and the reset of P (R281). -/

namespace Sys2Proof.Machine

namespace StatusRegister

/-- `P.N <- v`. -/
def setN (v : Bool) (p : StatusRegister) : StatusRegister := { p with n := v }
/-- `P.V <- v`. -/
def setV (v : Bool) (p : StatusRegister) : StatusRegister := { p with v := v }
/-- `P.D <- v`. -/
def setD (v : Bool) (p : StatusRegister) : StatusRegister := { p with d := v }
/-- `P.I <- v`. -/
def setI (v : Bool) (p : StatusRegister) : StatusRegister := { p with i := v }
/-- `P.Z <- v`. -/
def setZ (v : Bool) (p : StatusRegister) : StatusRegister := { p with z := v }
/-- `P.C <- v`. -/
def setC (v : Bool) (p : StatusRegister) : StatusRegister := { p with c := v }
/-- `P.R <- v`: "a write of `false` is ignored" (R29). -/
def setR (v : Bool) (p : StatusRegister) : StatusRegister := { p with r := p.r || v }

/-- "`SetZN(v)`": `P.Z <- (v = 0x00)` and `P.N <- v[7]`, two independent writes (R121). -/
def setZN (v : Byte) (p : StatusRegister) : StatusRegister := (p.setZ (v == 0x00)).setN (v.getLsbD 7)

/-- "9-bit addition of accumulator, operand, and incoming carry" (R193): the truncated sum, and P with C and V. -/
def addWithCarry (p : StatusRegister) (a m : Byte) : Byte × StatusRegister :=
  let sum := a.toNat + m.toNat + p.c.toNat
  let r := BitVec.ofNat 8 sum
  (r, (p.setC (decide (sum > 0xFF))).setV (!(a ^^^ m).getLsbD 7 && (a ^^^ r).getLsbD 7))

/-- "`diff <- a - m - (P.C ? 0 : 1)`" on integers (R230): the truncated difference, and P with C and V. -/
def subWithBorrow (p : StatusRegister) (a m : Byte) : Byte × StatusRegister :=
  let diff : Int := a.toNat - m.toNat - (if p.c then 0 else 1)
  let r := BitVec.ofInt 8 diff
  (r, (p.setC (decide (diff ≥ 0))).setV ((a ^^^ m).getLsbD 7 && (a ^^^ r).getLsbD 7))

/-- "`Compare(reg, m)`": C unsigned `reg >= m`, Z `reg = m`, N bit 7 of the difference; V is not changed (R243). -/
def compare (p : StatusRegister) (reg m : Byte) : StatusRegister :=
  ((p.setC (decide (reg.toNat ≥ m.toNat))).setZ (reg == m)).setN ((reg - m).getLsbD 7)

/-- The packed byte: `N<<7 | V<<6 | R<<5 | B<<4 | D<<3 | I<<2 | Z<<1 | C` (R32). -/
def pack (p : StatusRegister) : Byte :=
  BitVec.ofNat 8
    (p.n.toNat * 128 + p.v.toNat * 64 + p.r.toNat * 32 + p.b.toNat * 16
      + p.d.toNat * 8 + p.i.toNat * 4 + p.z.toNat * 2 + p.c.toNat)

/-- P restored from a pulled byte: N, V, D, I, Z, C from bits 7, 6, 3, 2, 1, 0; bits 5 and 4 are ignored, so `P.R` and
`P.B` keep their values (R225, D21). -/
def restore (v : Byte) (p : StatusRegister) : StatusRegister :=
  (((((p.setN (v.getLsbD 7)).setV (v.getLsbD 6)).setD (v.getLsbD 3)).setI (v.getLsbD 2)).setZ (v.getLsbD 1)).setC
    (v.getLsbD 0)

/-- "clears all flags except `reserved`, which is forced true" (R281). -/
def reset (p : StatusRegister) : StatusRegister :=
  { n := false, v := false, r := p.r, b := false, d := false, i := false, z := false, c := false : StatusRegister }.setR true

end StatusRegister

end Sys2Proof.Machine
end

