-- ==== Sys2Proof/Machine/Ops.lean ====
section
/-! DEFINITION. The named operations over registers and memory: the register writes (R25, R38), the bus dispatcher
(R50 to R64), fetch (R101), the stack (R240, R241), recording a fault (R250), the break entry and its return (R214,
R228), and the host's reset and power-on (R269, R281). -/

namespace Sys2Proof.Machine

/-! ## Register writes -/

namespace State

/-- `A <- v`. -/
def setA (v : Byte) (s : State) : State := { s with a := v }
/-- `X <- v`. -/
def setX (v : Byte) (s : State) : State := { s with x := v }
/-- `Y <- v`. -/
def setY (v : Byte) (s : State) : State := { s with y := v }
/-- `S <- v`. -/
def setSp (v : Byte) (s : State) : State := { s with sp := v }
/-- "`set_pc(addr)`": unconditional overwrite (R25). -/
def setPc (addr : Addr) (s : State) : State := { s with pc := addr }
/-- The whole of P replaced. -/
def setP (p : StatusRegister) (s : State) : State := { s with p := p }
/-- The run status replaced (R36). -/
def setStatus (r : RunStatus) (s : State) : State := { s with status := r }
/-- The RAM array replaced. -/
def setRam (m : Memory) (s : State) : State := { s with ram := m }
/-- A device event recorded after the earlier ones, "in issue order" (R63). -/
def logEvent (e : DevEvent) (s : State) : State := { s with history := s.history ++ [e] }
/-- "`SetZN(v)`" on the state's P (R121). -/
def setZN (v : Byte) (s : State) : State := s.setP (s.p.setZN v)

end State

/-! ## The bus dispatcher -/

/-- Where an address goes, with the local offset (R52). -/
inductive Target where
  | ram (off : Nat)
  | device (dev : Device) (off : Addr)
  | rom (off : Nat)
  | unmapped
  deriving DecidableEq, Repr

/-- The dispatch precedence, "first match wins" (R52), with the local offsets of D11. -/
def route (prgLen : Nat) (addr : Addr) : Target :=
  if addr ≤ 0x07FF then .ram addr.toNat
  else if addr ≤ 0x1FFF then .ram (addr &&& 0x07FF).toNat
  else if addr ≤ 0x3FFF then .device .ppu (addr &&& 0x0007)
  else if addr = 0x4016 then .device .pad 0x0000
  else if addr = 0x4014 then .device .dma 0x0000
  else if addr ≤ 0x401F then .device .apu (addr - 0x4000)
  else if addr < 0x8000 then .unmapped
  else .rom (romOffset prgLen addr)

/-- "`MemRead(addr, 1)`" (R51, R52): the byte, and the state with the device event if there is one (R63). -/
def busRead (addr : Addr) (s : State) : Byte × State :=
  match route s.cfg.prgLen addr with
  | .ram off => (s.ram.read off, s)
  | .device dev off => (Config.devRead s.history dev off, s.logEvent (.read dev off))
  | .rom off => (s.cfg.prg.read off, s)
  | .unmapped => (0x00, s)

/-- "`MemWrite(addr, 1, v)`" (R51, R52): RAM is written, a device write is recorded, a write to ROM or to an unmapped
address is a no-op (R59, R61). -/
def busWrite (addr : Addr) (v : Byte) (s : State) : State :=
  match route s.cfg.prgLen addr with
  | .ram off => s.setRam (s.ram.write off v)
  | .device dev off => s.logEvent (.write dev off v)
  | .rom _ => s
  | .unmapped => s

/-- The byte of memory at an address, read with no side effect; a device address holds no byte of the CORE (R63). -/
def State.peek (s : State) (addr : Addr) : Option Byte :=
  match route s.cfg.prgLen addr with
  | .ram off => some (s.ram.read off)
  | .device _ _ => none
  | .rom off => some (s.cfg.prg.read off)
  | .unmapped => some 0x00

/-- Two addresses that are routed to the same RAM byte (R54). -/
def sameRamByte (addr addr' : Addr) : Prop :=
  addr ≤ 0x1FFF ∧ addr' ≤ 0x1FFF ∧ addr &&& 0x07FF = addr' &&& 0x07FF

/-- "`FetchByte()`": the byte at pc, then pc advanced with its wrap (R101, R26). -/
def fetchByte (s : State) : Byte × State :=
  let (b, s1) := busRead s.pc s
  (b, s1.setPc (s1.pc + 1))

/-! ## The stack -/

/-- The address in the stack page that S names: `0x0100 | zext_16(S)` (R240). -/
def stackAddr (sp : Byte) : Addr := 0x0100 ||| zext16 sp

/-- "`Push(v)`": write at the stack address, then decrement S modulo 256 (R240). -/
def push (v : Byte) (s : State) : State :=
  let s1 := busWrite (stackAddr s.sp) v s
  s1.setSp (s1.sp - 1)

/-- "`Pull()`": increment S modulo 256, then read at the stack address (R241). -/
def pull (s : State) : Byte × State :=
  let s1 := s.setSp (s.sp + 1)
  busRead (stackAddr s1.sp) s1

/-- A 16-bit value pushed high byte first (R214, R220). -/
def pushWord (w : Addr) (s : State) : State := push (loByte w) (push (hiByte w) s)

/-- A 16-bit value pulled low byte first (R228, R229). -/
def pullWord (s : State) : Addr × State :=
  let (lo, s1) := pull s
  let (hi, s2) := pull s1
  (concat hi lo, s2)

/-! ## Faults, the break entry and its return -/

/-- "`raise F(info)`": the fault is recorded in the run status and nothing after it runs (R250, R256). -/
def raise (f : Fault) (s : State) : State := s.setStatus (.faulted f)

/-- The numeric code of a fault (R250). -/
def Fault.code : Fault → Nat
  | .decodeFailure _ _ => 1
  | .unimplementedInstruction _ _ _ _ => 2
  | .operandShapeMismatch _ _ => 3

/-- The entry through the IRQ/BRK vector (R214, R260): push the return address, one past the byte after BRK, push
`pack(P) | 0x30`, set I, and load pc from 0xFFFE/0xFFFF, low byte first. -/
def enterBreak (s : State) : State :=
  let s1 := push (s.p.pack ||| 0x30) (pushWord (s.pc + 1) s)
  let s2 := s1.setP (s1.p.setI true)
  let (lo, s3) := busRead 0xFFFE s2
  let (hi, s4) := busRead 0xFFFF s3
  s4.setPc (concat hi lo)

/-- The return (R228, R261): restore P from a pulled byte, then pull pc, low byte first, with no increment. -/
def returnFromBreak (s : State) : State :=
  let (v, s1) := pull s
  let (w, s2) := pullWord (s1.setP (s1.p.restore v))
  s2.setPc w

/-! ## The host's calls -/

/-- "`reset()`" (R281): zero the registers, reset P, load pc from 0xFFFC/0xFFFD through the bus, status Running. RAM,
the image and the devices are left alone (R282). -/
def hostReset (s : State) : State :=
  let s1 := ((((s.setA 0x00).setX 0x00).setY 0x00).setSp 0x00).setPc 0x0000
  let s2 := s1.setP s1.p.reset
  let (lo, s3) := busRead 0xFFFC s2
  let (hi, s4) := busRead 0xFFFD s3
  (s4.setPc (concat hi lo)).setStatus .running

/-- "configure (power-on)" (R269): refuse a length that is not admitted (R60), else the power-on state (R280). -/
def configure (cfg : Config) (ramInit : Memory) : Result :=
  if cfg.admitted then .next (State.powerOn cfg ramInit) else .refused .romLength

end Sys2Proof.Machine
end

