-- ==== Sys2Proof/Machine/Operands.lean ====
section
/-! DEFINITION. The operand (R35), the addressing resolver for all 13 modes (R103 to R115), the operand value (R120),
the shapes a kind accepts (R119), and the execute dispatch shared by every kind (R118). -/

namespace Sys2Proof.Machine

/-- "`Address(a)`", "`Immediate(v)`" or "`None`" (R35, D1). -/
inductive Operand where
  | address (a : Addr)
  | immediate (v : Byte)
  | none
  deriving DecidableEq, Repr

/-! ## Effective addresses, once the operand bytes are fetched -/

/-- ZeroPageX and ZeroPageY: "added with 8-bit wraparound (stays within page 0)" (R108, R109). -/
def zeroPageIndexed (z index : Byte) : Addr := zext16 (z + index)

/-- AbsoluteX and AbsoluteY: 16-bit index addition, modulo 2^16 (R110, R111, D10). -/
def absoluteIndexed (w : Addr) (index : Byte) : Addr := w + zext16 index

/-- Relative: the pc after the operand byte plus the signed offset, modulo 2^16 (R112, D10). -/
def relativeTarget (pcAfterOperand : Addr) (off : Byte) : Addr := pcAfterOperand + sext16 off

/-- A pointer in page 0: the low byte at `ptr`, the high byte at `ptr + 1` wrapped within page 0 (R113, R114). -/
def zeroPagePointer (ptr : Byte) (s : State) : Addr × State :=
  let (lo, s1) := busRead (zext16 ptr) s
  let (hi, s2) := busRead (zext16 (ptr + 1)) s1
  (concat hi lo, s2)

/-- A pointer anywhere: the high byte comes from the same page as the low byte, "the classic page-boundary quirk"
(R115). -/
def absolutePointer (ptr : Addr) (s : State) : Addr × State :=
  let (lo, s1) := busRead ptr s
  let (hi, s2) := busRead (concat (hiByte ptr) (loByte ptr + 1)) s1
  (concat hi lo, s2)

/-- `Resolve(mode)` after its operand bytes are fetched, so that pc is past the instruction (R103 to R115). Only the
three indirect modes read the bus; none writes. -/
def resolve : Addressing → State → Operand × State
  | .implied, s => (.none, s)
  | .accumulator, s => (.none, s)
  | .immediate v, s => (.immediate v, s)
  | .zeroPage z, s => (.address (zext16 z), s)
  | .zeroPageX z, s => (.address (zeroPageIndexed z s.x), s)
  | .zeroPageY z, s => (.address (zeroPageIndexed z s.y), s)
  | .absolute w, s => (.address w, s)
  | .absoluteX w, s => (.address (absoluteIndexed w s.x), s)
  | .absoluteY w, s => (.address (absoluteIndexed w s.y), s)
  | .relative off, s => (.address (relativeTarget s.pc off), s)
  | .indexedIndirect z, s =>
    let (a, s1) := zeroPagePointer (z + s.x) s
    (.address a, s1)
  | .indirectIndexed z, s =>
    let (a, s1) := zeroPagePointer z s
    (.address (absoluteIndexed a s1.y), s1)
  | .absoluteIndirect w, s =>
    let (a, s1) := absolutePointer w s
    (.address a, s1)

/-! ## The execute phase -/

/-- "`OperandValue`": an immediate as it stands, or exactly one read of the address (R120); `None` has no value. -/
def operandValue : Operand → State → Option (Byte × State)
  | .immediate v, s => some (v, s)
  | .address a, s => some (busRead a s)
  | .none, _ => Option.none

/-- A kind's rule by the operand shapes it accepts, one constructor per row of R119's table. -/
inductive Handler where
  /-- Accepts `Immediate` or `Address`; the rule gets the operand value. -/
  | value (rule : Byte → State → State)
  /-- Accepts `Address`. -/
  | address (rule : Addr → State → State)
  /-- Accepts `None`. -/
  | none (rule : State → State)
  /-- Accepts `None` (Accumulator) or `Address`: "`RMW(mode, operand, f)`" (R242). -/
  | modify (rule : Byte → StatusRegister → Byte × StatusRegister)
  /-- Accepts `Address` only: RMW without an accumulator form (INC, DEC). -/
  | modifyMemory (rule : Byte → StatusRegister → Byte × StatusRegister)

/-- "`m <- MemRead(a, 1); MemWrite(a, 1, f(m))`": one read, then one write (R242). -/
def modifyAt (rule : Byte → StatusRegister → Byte × StatusRegister) (a : Addr) (s : State) : State :=
  let (m, s1) := busRead a s
  let (r, p) := rule m s1.p
  busWrite a r (s1.setP p)

/-- "`if mode = Accumulator:  A <- f(A)`", no bus access (R242). -/
def modifyA (rule : Byte → StatusRegister → Byte × StatusRegister) (s : State) : State :=
  let (r, p) := rule s.a s.p
  (s.setP p).setA r

/-- The rule run on an operand; no result where the kind does not accept the operand's shape (R119). -/
def Handler.run : Handler → Operand → State → Option State
  | .value rule, o, s => (operandValue o s).map (fun (v, s1) => rule v s1)
  | .address rule, .address a, s => some (rule a s)
  | .address _, _, _ => Option.none
  | .none rule, .none, s => some (rule s)
  | .none _, _, _ => Option.none
  | .modify rule, .none, s => some (modifyA rule s)
  | .modify rule, .address a, s => some (modifyAt rule a s)
  | .modify _, .immediate _, _ => Option.none
  | .modifyMemory rule, .address a, s => some (modifyAt rule a s)
  | .modifyMemory _, _, _ => Option.none

/-- The set IMPLEMENTED of R118: the 37 kinds the CORE executes. -/
def implemented : Kind → Bool
  | .lda | .ldx | .ldy | .sta | .stx | .sty
  | .clc | .sec | .cli | .sei | .cld | .sed | .clv
  | .bcc | .bcs | .beq | .bne | .bvc | .bvs | .bpl | .bmi
  | .tax | .txa | .tay | .tya | .tsx | .txs
  | .inx | .iny | .dex | .dey
  | .and | .ora | .eor | .adc
  | .jmp | .nop => true
  | .asl | .bit | .brk | .cmp | .cpx | .cpy | .dec | .inc | .jsr | .lsr
  | .pha | .php | .pla | .plp | .rol | .ror | .rti | .rts | .sbc => false

/-- Operand resolution and `Execute(kind, mode, operand, opcode, fetch_addr)` (R100, R118): resolve; raise
UnimplementedInstruction unless the kind is implemented or `full_isa` holds; raise OperandShapeMismatch unless the
operand has a shape the kind accepts; else run the kind's rule. pc stands past the instruction, so the fetch address is
pc minus the length [log 5]. -/
def execute (kind : Kind) (form : Addressing) (opcode : Byte) (handler : Handler) (s : State) : Result :=
  let fetchAddr := s.pc - BitVec.ofNat 16 (1 + form.mode.operandCount)
  let (o, s1) := resolve form s
  if implemented kind || s1.cfg.fullIsa then
    match handler.run o s1 with
    | some s2 => .next s2
    | Option.none => .next (raise (.operandShapeMismatch kind form.mode) s1)
  else .next (raise (.unimplementedInstruction kind form.mode opcode fetchAddr) s1)

end Sys2Proof.Machine
end

