-- ==== Sys2Proof/Machine/Branches.lean ====
section
/-! DEFINITION. Conditional branches (43_branches.md): what each kind does once its operand is resolved, and one meaning per
row of the opcode table, each one application of `execute` (R118) to the row's kind, operand form and opcode byte. -/

namespace Sys2Proof.Machine

/-- "if cond(P) then pc <- t", else pc stays past the operand (R160). -/
def branchIf (taken : Bool) (t : Addr) (s : State) : State := if taken then s.setPc t else s

/-- "`if P.C = false then pc <- t`" (R161). -/
def ruleBcc (t : Addr) (s : State) : State := branchIf (!s.p.c) t s

/-! BCC (R161), the table's rows. -/

def execBccRel (off : Byte) (s : State) : Result :=
  execute .bcc (.relative off) 0x90 (.address ruleBcc) s

/-- "`if P.C = true then pc <- t`" (R162). -/
def ruleBcs (t : Addr) (s : State) : State := branchIf (s.p.c) t s

/-! BCS (R162), the table's rows. -/

def execBcsRel (off : Byte) (s : State) : Result :=
  execute .bcs (.relative off) 0xB0 (.address ruleBcs) s

/-- "`if P.Z = true then pc <- t`" (R163). -/
def ruleBeq (t : Addr) (s : State) : State := branchIf (s.p.z) t s

/-! BEQ (R163), the table's rows. -/

def execBeqRel (off : Byte) (s : State) : Result :=
  execute .beq (.relative off) 0xF0 (.address ruleBeq) s

/-- "`if P.Z = false then pc <- t`" (R164). -/
def ruleBne (t : Addr) (s : State) : State := branchIf (!s.p.z) t s

/-! BNE (R164), the table's rows. -/

def execBneRel (off : Byte) (s : State) : Result :=
  execute .bne (.relative off) 0xD0 (.address ruleBne) s

/-- "`if P.V = false then pc <- t`" (R165). -/
def ruleBvc (t : Addr) (s : State) : State := branchIf (!s.p.v) t s

/-! BVC (R165), the table's rows. -/

def execBvcRel (off : Byte) (s : State) : Result :=
  execute .bvc (.relative off) 0x50 (.address ruleBvc) s

/-- "`if P.V = true then pc <- t`" (R166). -/
def ruleBvs (t : Addr) (s : State) : State := branchIf (s.p.v) t s

/-! BVS (R166), the table's rows. -/

def execBvsRel (off : Byte) (s : State) : Result :=
  execute .bvs (.relative off) 0x70 (.address ruleBvs) s

/-- "`if P.N = false then pc <- t`" (R167). -/
def ruleBpl (t : Addr) (s : State) : State := branchIf (!s.p.n) t s

/-! BPL (R167), the table's rows. -/

def execBplRel (off : Byte) (s : State) : Result :=
  execute .bpl (.relative off) 0x10 (.address ruleBpl) s

/-- "`if P.N = true then pc <- t`" (R168). -/
def ruleBmi (t : Addr) (s : State) : State := branchIf (s.p.n) t s

/-! BMI (R168), the table's rows. -/

def execBmiRel (off : Byte) (s : State) : Result :=
  execute .bmi (.relative off) 0x30 (.address ruleBmi) s

end Sys2Proof.Machine
end

