-- ==== Sys2Proof/Machine/Extended.lean ====
section
/-! DEFINITION. The 19 kinds that execute under `full_isa` (48_unimplemented.md): what each kind does once its operand is resolved, and one meaning per
row of the opcode table, each one application of `execute` (R118) to the row's kind, operand form and opcode byte. -/

namespace Sys2Proof.Machine

/-- "`P.C <- bool(m[7] = 1);  r <- u8(m << 1);  SetZN(r);  return r`" (R212). -/
def ruleAsl (m : Byte) (p : StatusRegister) : Byte × StatusRegister :=
  let r := m <<< 1
  (r, (p.setC (m.getLsbD 7)).setZN r)

/-! ASL (R212), the table's rows. -/

def execAslAcc (s : State) : Result :=
  execute .asl .accumulator 0x0A (.modify ruleAsl) s

def execAslZp (z : Byte) (s : State) : Result :=
  execute .asl (.zeroPage z) 0x06 (.modify ruleAsl) s

def execAslZpX (z : Byte) (s : State) : Result :=
  execute .asl (.zeroPageX z) 0x16 (.modify ruleAsl) s

def execAslAbs (w : Addr) (s : State) : Result :=
  execute .asl (.absolute w) 0x0E (.modify ruleAsl) s

def execAslAbsX (w : Addr) (s : State) : Result :=
  execute .asl (.absoluteX w) 0x1E (.modify ruleAsl) s

/-- Z from `A & m`, N and V from bits 7 and 6 of `m`; A is not changed (R213). -/
def ruleBit (m : Byte) (s : State) : State :=
  s.setP (((s.p.setZ (s.a &&& m == 0x00)).setN (m.getLsbD 7)).setV (m.getLsbD 6))

/-! BIT (R213), the table's rows. -/

def execBitZp (z : Byte) (s : State) : Result :=
  execute .bit (.zeroPage z) 0x24 (.value ruleBit) s

def execBitAbs (w : Addr) (s : State) : Result :=
  execute .bit (.absolute w) 0x2C (.value ruleBit) s

/-- The software interrupt: the shared entry `enterBreak` (R214, R260). -/
def ruleBrk (s : State) : State := enterBreak s

/-! BRK (R214), the table's rows. -/

def execBrk (s : State) : Result :=
  execute .brk .implied 0x00 (.none ruleBrk) s

/-- "`Compare(A, OperandValue(operand))`" (R215, R243). -/
def ruleCmp (m : Byte) (s : State) : State := s.setP (s.p.compare s.a m)

/-! CMP (R215), the table's rows. -/

def execCmpImm (v : Byte) (s : State) : Result :=
  execute .cmp (.immediate v) 0xC9 (.value ruleCmp) s

def execCmpZp (z : Byte) (s : State) : Result :=
  execute .cmp (.zeroPage z) 0xC5 (.value ruleCmp) s

def execCmpZpX (z : Byte) (s : State) : Result :=
  execute .cmp (.zeroPageX z) 0xD5 (.value ruleCmp) s

def execCmpAbs (w : Addr) (s : State) : Result :=
  execute .cmp (.absolute w) 0xCD (.value ruleCmp) s

def execCmpAbsX (w : Addr) (s : State) : Result :=
  execute .cmp (.absoluteX w) 0xDD (.value ruleCmp) s

def execCmpAbsY (w : Addr) (s : State) : Result :=
  execute .cmp (.absoluteY w) 0xD9 (.value ruleCmp) s

def execCmpIndX (z : Byte) (s : State) : Result :=
  execute .cmp (.indexedIndirect z) 0xC1 (.value ruleCmp) s

def execCmpIndY (z : Byte) (s : State) : Result :=
  execute .cmp (.indirectIndexed z) 0xD1 (.value ruleCmp) s

/-- "`Compare(X, OperandValue(operand))`" (R216, R243). -/
def ruleCpx (m : Byte) (s : State) : State := s.setP (s.p.compare s.x m)

/-! CPX (R216), the table's rows. -/

def execCpxImm (v : Byte) (s : State) : Result :=
  execute .cpx (.immediate v) 0xE0 (.value ruleCpx) s

def execCpxZp (z : Byte) (s : State) : Result :=
  execute .cpx (.zeroPage z) 0xE4 (.value ruleCpx) s

def execCpxAbs (w : Addr) (s : State) : Result :=
  execute .cpx (.absolute w) 0xEC (.value ruleCpx) s

/-- "`Compare(Y, OperandValue(operand))`" (R217, R243). -/
def ruleCpy (m : Byte) (s : State) : State := s.setP (s.p.compare s.y m)

/-! CPY (R217), the table's rows. -/

def execCpyImm (v : Byte) (s : State) : Result :=
  execute .cpy (.immediate v) 0xC0 (.value ruleCpy) s

def execCpyZp (z : Byte) (s : State) : Result :=
  execute .cpy (.zeroPage z) 0xC4 (.value ruleCpy) s

def execCpyAbs (w : Addr) (s : State) : Result :=
  execute .cpy (.absolute w) 0xCC (.value ruleCpy) s

/-- "`f(m): r <- u8(m - 1); SetZN(r); return r`": always wraps, whatever `incdec_wrap` (R218). -/
def ruleDec (m : Byte) (p : StatusRegister) : Byte × StatusRegister :=
  let r := m - 1
  (r, p.setZN r)

/-! DEC (R218), the table's rows. -/

def execDecZp (z : Byte) (s : State) : Result :=
  execute .dec (.zeroPage z) 0xC6 (.modifyMemory ruleDec) s

def execDecZpX (z : Byte) (s : State) : Result :=
  execute .dec (.zeroPageX z) 0xD6 (.modifyMemory ruleDec) s

def execDecAbs (w : Addr) (s : State) : Result :=
  execute .dec (.absolute w) 0xCE (.modifyMemory ruleDec) s

def execDecAbsX (w : Addr) (s : State) : Result :=
  execute .dec (.absoluteX w) 0xDE (.modifyMemory ruleDec) s

/-- "`f(m): r <- u8(m + 1); SetZN(r); return r`": always wraps, whatever `incdec_wrap` (R219). -/
def ruleInc (m : Byte) (p : StatusRegister) : Byte × StatusRegister :=
  let r := m + 1
  (r, p.setZN r)

/-! INC (R219), the table's rows. -/

def execIncZp (z : Byte) (s : State) : Result :=
  execute .inc (.zeroPage z) 0xE6 (.modifyMemory ruleInc) s

def execIncZpX (z : Byte) (s : State) : Result :=
  execute .inc (.zeroPageX z) 0xF6 (.modifyMemory ruleInc) s

def execIncAbs (w : Addr) (s : State) : Result :=
  execute .inc (.absolute w) 0xEE (.modifyMemory ruleInc) s

def execIncAbsX (w : Addr) (s : State) : Result :=
  execute .inc (.absoluteX w) 0xFE (.modifyMemory ruleInc) s

/-- Push the address of the last byte of the JSR, high byte first, and jump to the target resolved before (R220). -/
def ruleJsr (t : Addr) (s : State) : State := (pushWord (s.pc - 1) s).setPc t

/-! JSR (R220), the table's rows. -/

def execJsrAbs (w : Addr) (s : State) : Result :=
  execute .jsr (.absolute w) 0x20 (.address ruleJsr) s

/-- "`P.C <- bool(m[0] = 1); r <- m >> 1; SetZN(r); return r`" (R221). -/
def ruleLsr (m : Byte) (p : StatusRegister) : Byte × StatusRegister :=
  let r := m >>> 1
  (r, (p.setC (m.getLsbD 0)).setZN r)

/-! LSR (R221), the table's rows. -/

def execLsrAcc (s : State) : Result :=
  execute .lsr .accumulator 0x4A (.modify ruleLsr) s

def execLsrZp (z : Byte) (s : State) : Result :=
  execute .lsr (.zeroPage z) 0x46 (.modify ruleLsr) s

def execLsrZpX (z : Byte) (s : State) : Result :=
  execute .lsr (.zeroPageX z) 0x56 (.modify ruleLsr) s

def execLsrAbs (w : Addr) (s : State) : Result :=
  execute .lsr (.absolute w) 0x4E (.modify ruleLsr) s

def execLsrAbsX (w : Addr) (s : State) : Result :=
  execute .lsr (.absoluteX w) 0x5E (.modify ruleLsr) s

/-- "`Push(A)`" (R222). -/
def rulePha (s : State) : State := push s.a s

/-! PHA (R222), the table's rows. -/

def execPha (s : State) : Result :=
  execute .pha .implied 0x48 (.none rulePha) s

/-- "`Push(pack(P) | 0x30)`" (R223). -/
def rulePhp (s : State) : State := push (s.p.pack ||| 0x30) s

/-! PHP (R223), the table's rows. -/

def execPhp (s : State) : Result :=
  execute .php .implied 0x08 (.none rulePhp) s

/-- "`A <- Pull(); SetZN(A)`" (R224). -/
def rulePla (s : State) : State :=
  let (v, s1) := pull s
  (s1.setA v).setZN v

/-! PLA (R224), the table's rows. -/

def execPla (s : State) : Result :=
  execute .pla .implied 0x68 (.none rulePla) s

/-- Pull a byte and restore P from it; bits 5 and 4 are ignored (R225). -/
def rulePlp (s : State) : State :=
  let (v, s1) := pull s
  s1.setP (s1.p.restore v)

/-! PLP (R225), the table's rows. -/

def execPlp (s : State) : Result :=
  execute .plp .implied 0x28 (.none rulePlp) s

/-- "`c <- P.C; P.C <- bool(m[7] = 1); r <- u8(m << 1) | (c ? 1 : 0); SetZN(r); return r`" (R226). -/
def ruleRol (m : Byte) (p : StatusRegister) : Byte × StatusRegister :=
  let r := (m <<< 1) ||| (if p.c then 0x01 else 0x00)
  (r, (p.setC (m.getLsbD 7)).setZN r)

/-! ROL (R226), the table's rows. -/

def execRolAcc (s : State) : Result :=
  execute .rol .accumulator 0x2A (.modify ruleRol) s

def execRolZp (z : Byte) (s : State) : Result :=
  execute .rol (.zeroPage z) 0x26 (.modify ruleRol) s

def execRolZpX (z : Byte) (s : State) : Result :=
  execute .rol (.zeroPageX z) 0x36 (.modify ruleRol) s

def execRolAbs (w : Addr) (s : State) : Result :=
  execute .rol (.absolute w) 0x2E (.modify ruleRol) s

def execRolAbsX (w : Addr) (s : State) : Result :=
  execute .rol (.absoluteX w) 0x3E (.modify ruleRol) s

/-- "`c <- P.C; P.C <- bool(m[0] = 1); r <- (m >> 1) | (c ? 0x80 : 0); SetZN(r); return r`" (R227). -/
def ruleRor (m : Byte) (p : StatusRegister) : Byte × StatusRegister :=
  let r := (m >>> 1) ||| (if p.c then 0x80 else 0x00)
  (r, (p.setC (m.getLsbD 0)).setZN r)

/-! ROR (R227), the table's rows. -/

def execRorAcc (s : State) : Result :=
  execute .ror .accumulator 0x6A (.modify ruleRor) s

def execRorZp (z : Byte) (s : State) : Result :=
  execute .ror (.zeroPage z) 0x66 (.modify ruleRor) s

def execRorZpX (z : Byte) (s : State) : Result :=
  execute .ror (.zeroPageX z) 0x76 (.modify ruleRor) s

def execRorAbs (w : Addr) (s : State) : Result :=
  execute .ror (.absolute w) 0x6E (.modify ruleRor) s

def execRorAbsX (w : Addr) (s : State) : Result :=
  execute .ror (.absoluteX w) 0x7E (.modify ruleRor) s

/-- The return from interrupt: the shared return `returnFromBreak` (R228, R261). -/
def ruleRti (s : State) : State := returnFromBreak s

/-! RTI (R228), the table's rows. -/

def execRti (s : State) : Result :=
  execute .rti .implied 0x40 (.none ruleRti) s

/-- "`lo <- Pull(); hi <- Pull(); pc <- u16(concat(hi, lo) + 1)`" (R229). -/
def ruleRts (s : State) : State :=
  let (w, s1) := pullWord s
  s1.setPc (w + 1)

/-! RTS (R229), the table's rows. -/

def execRts (s : State) : Result :=
  execute .rts .implied 0x60 (.none ruleRts) s

/-- Subtract with borrow: the difference and C, V from `StatusRegister.subWithBorrow`, then A, Z and N (R230);
binary for every value of D. -/
def ruleSbc (m : Byte) (s : State) : State :=
  let (r, p) := s.p.subWithBorrow s.a m
  ((s.setP p).setA r).setZN r

/-! SBC (R230), the table's rows. -/

def execSbcImm (v : Byte) (s : State) : Result :=
  execute .sbc (.immediate v) 0xE9 (.value ruleSbc) s

def execSbcZp (z : Byte) (s : State) : Result :=
  execute .sbc (.zeroPage z) 0xE5 (.value ruleSbc) s

def execSbcZpX (z : Byte) (s : State) : Result :=
  execute .sbc (.zeroPageX z) 0xF5 (.value ruleSbc) s

def execSbcAbs (w : Addr) (s : State) : Result :=
  execute .sbc (.absolute w) 0xED (.value ruleSbc) s

def execSbcAbsX (w : Addr) (s : State) : Result :=
  execute .sbc (.absoluteX w) 0xFD (.value ruleSbc) s

def execSbcAbsY (w : Addr) (s : State) : Result :=
  execute .sbc (.absoluteY w) 0xF9 (.value ruleSbc) s

def execSbcIndX (z : Byte) (s : State) : Result :=
  execute .sbc (.indexedIndirect z) 0xE1 (.value ruleSbc) s

def execSbcIndY (z : Byte) (s : State) : Result :=
  execute .sbc (.indirectIndexed z) 0xF1 (.value ruleSbc) s

end Sys2Proof.Machine
end

