-- ==== Sys2Proof/Machine/FlagControl.lean ====
section
/-! DEFINITION. Flag-control instructions (42_flag_control.md): what each kind does once its operand is resolved, and one meaning per
row of the opcode table, each one application of `execute` (R118) to the row's kind, operand form and opcode byte. -/

namespace Sys2Proof.Machine

/-- "`P.C <- false`" (R150). -/
def ruleClc (s : State) : State := s.setP (s.p.setC false)

/-! CLC (R150), the table's rows. -/

def execClc (s : State) : Result :=
  execute .clc .implied 0x18 (.none ruleClc) s

/-- "`P.C <- true`" (R151). -/
def ruleSec (s : State) : State := s.setP (s.p.setC true)

/-! SEC (R151), the table's rows. -/

def execSec (s : State) : Result :=
  execute .sec .implied 0x38 (.none ruleSec) s

/-- "`P.I <- false`" (R152). -/
def ruleCli (s : State) : State := s.setP (s.p.setI false)

/-! CLI (R152), the table's rows. -/

def execCli (s : State) : Result :=
  execute .cli .implied 0x58 (.none ruleCli) s

/-- "`P.I <- true`" (R153). -/
def ruleSei (s : State) : State := s.setP (s.p.setI true)

/-! SEI (R153), the table's rows. -/

def execSei (s : State) : Result :=
  execute .sei .implied 0x78 (.none ruleSei) s

/-- "`P.D <- false`" (R154). -/
def ruleCld (s : State) : State := s.setP (s.p.setD false)

/-! CLD (R154), the table's rows. -/

def execCld (s : State) : Result :=
  execute .cld .implied 0xD8 (.none ruleCld) s

/-- "`P.D <- true`" (R155). -/
def ruleSed (s : State) : State := s.setP (s.p.setD true)

/-! SED (R155), the table's rows. -/

def execSed (s : State) : Result :=
  execute .sed .implied 0xF8 (.none ruleSed) s

/-- "`P.V <- false`" (R156). -/
def ruleClv (s : State) : State := s.setP (s.p.setV false)

/-! CLV (R156), the table's rows. -/

def execClv (s : State) : Result :=
  execute .clv .implied 0xB8 (.none ruleClv) s

end Sys2Proof.Machine
end

