-- ==== Sys2Proof/Machine/IncDec.lean ====
section
/-! DEFINITION. Register increment and decrement (45_inc_dec.md): what each kind does once its operand is resolved, and one meaning per
row of the opcode table, each one application of `execute` (R118) to the row's kind, operand form and opcode byte. -/

namespace Sys2Proof.Machine

/-- "`inc8(v) = if incdec_wrap then u8(v + 1) else min(v + 1, 0xFF)`" (R180). -/
def inc8 (wrap : Bool) (v : Byte) : Byte :=
  if wrap then BitVec.ofNat 8 (v.toNat + 1) else BitVec.ofNat 8 (min (v.toNat + 1) 0xFF)

/-- "`dec8(v) = if incdec_wrap then u8(v - 1) else max(v - 1, 0x00)`", the difference taken on integers (R180). -/
def dec8 (wrap : Bool) (v : Byte) : Byte :=
  if wrap then BitVec.ofInt 8 ((v.toNat : Int) - 1) else BitVec.ofInt 8 (max ((v.toNat : Int) - 1) 0x00)

/-- "`X <- inc8(X); SetZN(X)`"; C and V are not changed (R181). -/
def ruleInx (s : State) : State :=
  let r := inc8 s.cfg.incdecWrap s.x
  (s.setX r).setZN r

/-! INX (R181), the table's rows. -/

def execInx (s : State) : Result :=
  execute .inx .implied 0xE8 (.none ruleInx) s

/-- "`Y <- inc8(Y); SetZN(Y)`"; C and V are not changed (R182). -/
def ruleIny (s : State) : State :=
  let r := inc8 s.cfg.incdecWrap s.y
  (s.setY r).setZN r

/-! INY (R182), the table's rows. -/

def execIny (s : State) : Result :=
  execute .iny .implied 0xC8 (.none ruleIny) s

/-- "`X <- dec8(X); SetZN(X)`"; C and V are not changed (R183). -/
def ruleDex (s : State) : State :=
  let r := dec8 s.cfg.incdecWrap s.x
  (s.setX r).setZN r

/-! DEX (R183), the table's rows. -/

def execDex (s : State) : Result :=
  execute .dex .implied 0xCA (.none ruleDex) s

/-- "`Y <- dec8(Y); SetZN(Y)`"; C and V are not changed (R184). -/
def ruleDey (s : State) : State :=
  let r := dec8 s.cfg.incdecWrap s.y
  (s.setY r).setZN r

/-! DEY (R184), the table's rows. -/

def execDey (s : State) : Result :=
  execute .dey .implied 0x88 (.none ruleDey) s

end Sys2Proof.Machine
end

