-- ==== Sys2Proof/Machine/JumpNop.lean ====
section
/-! DEFINITION. Jump and no-operation (47_jmp_nop.md): what each kind does once its operand is resolved, and one meaning per
row of the opcode table, each one application of `execute` (R118) to the row's kind, operand form and opcode byte. -/

namespace Sys2Proof.Machine

/-- "`JMP`: unconditional `pc` = resolved address" (R200). -/
def ruleJmp (t : Addr) (s : State) : State := s.setPc t

/-! JMP (R200), the table's rows. -/

def execJmpAbs (w : Addr) (s : State) : Result :=
  execute .jmp (.absolute w) 0x4C (.address ruleJmp) s

def execJmpInd (w : Addr) (s : State) : Result :=
  execute .jmp (.absoluteIndirect w) 0x6C (.address ruleJmp) s

/-- "`NOP`: no state change" (R201). -/
def ruleNop (s : State) : State := s

/-! NOP (R201), the table's rows. -/

def execNop (s : State) : Result :=
  execute .nop .implied 0xEA (.none ruleNop) s

end Sys2Proof.Machine
end

