-- ==== Sys2Proof/Machine/LoadStore.lean ====
section
/-! DEFINITION. Loads and stores (41_load_store.md): what each kind does once its operand is resolved, and one meaning per
row of the opcode table, each one application of `execute` (R118) to the row's kind, operand form and opcode byte. -/

namespace Sys2Proof.Machine

/-- "`A <- v; SetZN(v)`" (R130). -/
def ruleLda (v : Byte) (s : State) : State := (s.setA v).setZN v

/-! LDA (R130), the table's rows. -/

def execLdaImm (v : Byte) (s : State) : Result :=
  execute .lda (.immediate v) 0xA9 (.value ruleLda) s

def execLdaZp (z : Byte) (s : State) : Result :=
  execute .lda (.zeroPage z) 0xA5 (.value ruleLda) s

def execLdaZpX (z : Byte) (s : State) : Result :=
  execute .lda (.zeroPageX z) 0xB5 (.value ruleLda) s

def execLdaAbs (w : Addr) (s : State) : Result :=
  execute .lda (.absolute w) 0xAD (.value ruleLda) s

def execLdaAbsX (w : Addr) (s : State) : Result :=
  execute .lda (.absoluteX w) 0xBD (.value ruleLda) s

def execLdaAbsY (w : Addr) (s : State) : Result :=
  execute .lda (.absoluteY w) 0xB9 (.value ruleLda) s

def execLdaIndX (z : Byte) (s : State) : Result :=
  execute .lda (.indexedIndirect z) 0xA1 (.value ruleLda) s

def execLdaIndY (z : Byte) (s : State) : Result :=
  execute .lda (.indirectIndexed z) 0xB1 (.value ruleLda) s

/-- "`X <- v; SetZN(v)`" (R131). -/
def ruleLdx (v : Byte) (s : State) : State := (s.setX v).setZN v

/-! LDX (R131), the table's rows. -/

def execLdxImm (v : Byte) (s : State) : Result :=
  execute .ldx (.immediate v) 0xA2 (.value ruleLdx) s

def execLdxZp (z : Byte) (s : State) : Result :=
  execute .ldx (.zeroPage z) 0xA6 (.value ruleLdx) s

def execLdxZpY (z : Byte) (s : State) : Result :=
  execute .ldx (.zeroPageY z) 0xB6 (.value ruleLdx) s

def execLdxAbs (w : Addr) (s : State) : Result :=
  execute .ldx (.absolute w) 0xAE (.value ruleLdx) s

def execLdxAbsY (w : Addr) (s : State) : Result :=
  execute .ldx (.absoluteY w) 0xBE (.value ruleLdx) s

/-- "`Y <- v; SetZN(v)`" (R132). -/
def ruleLdy (v : Byte) (s : State) : State := (s.setY v).setZN v

/-! LDY (R132), the table's rows. -/

def execLdyImm (v : Byte) (s : State) : Result :=
  execute .ldy (.immediate v) 0xA0 (.value ruleLdy) s

def execLdyZp (z : Byte) (s : State) : Result :=
  execute .ldy (.zeroPage z) 0xA4 (.value ruleLdy) s

def execLdyZpX (z : Byte) (s : State) : Result :=
  execute .ldy (.zeroPageX z) 0xB4 (.value ruleLdy) s

def execLdyAbs (w : Addr) (s : State) : Result :=
  execute .ldy (.absolute w) 0xAC (.value ruleLdy) s

def execLdyAbsX (w : Addr) (s : State) : Result :=
  execute .ldy (.absoluteX w) 0xBC (.value ruleLdy) s

/-- "`MemWrite(a, 1, A)`": exactly one bus write, no read, no flag (R133). -/
def ruleSta (a : Addr) (s : State) : State := busWrite a s.a s

/-! STA (R133), the table's rows. -/

def execStaZp (z : Byte) (s : State) : Result :=
  execute .sta (.zeroPage z) 0x85 (.address ruleSta) s

def execStaZpX (z : Byte) (s : State) : Result :=
  execute .sta (.zeroPageX z) 0x95 (.address ruleSta) s

def execStaAbs (w : Addr) (s : State) : Result :=
  execute .sta (.absolute w) 0x8D (.address ruleSta) s

def execStaAbsX (w : Addr) (s : State) : Result :=
  execute .sta (.absoluteX w) 0x9D (.address ruleSta) s

def execStaAbsY (w : Addr) (s : State) : Result :=
  execute .sta (.absoluteY w) 0x99 (.address ruleSta) s

def execStaIndX (z : Byte) (s : State) : Result :=
  execute .sta (.indexedIndirect z) 0x81 (.address ruleSta) s

def execStaIndY (z : Byte) (s : State) : Result :=
  execute .sta (.indirectIndexed z) 0x91 (.address ruleSta) s

/-- "`MemWrite(a, 1, X)`": exactly one bus write, no read, no flag (R134). -/
def ruleStx (a : Addr) (s : State) : State := busWrite a s.x s

/-! STX (R134), the table's rows. -/

def execStxZp (z : Byte) (s : State) : Result :=
  execute .stx (.zeroPage z) 0x86 (.address ruleStx) s

def execStxZpY (z : Byte) (s : State) : Result :=
  execute .stx (.zeroPageY z) 0x96 (.address ruleStx) s

def execStxAbs (w : Addr) (s : State) : Result :=
  execute .stx (.absolute w) 0x8E (.address ruleStx) s

/-- "`MemWrite(a, 1, Y)`": exactly one bus write, no read, no flag (R135). -/
def ruleSty (a : Addr) (s : State) : State := busWrite a s.y s

/-! STY (R135), the table's rows. -/

def execStyZp (z : Byte) (s : State) : Result :=
  execute .sty (.zeroPage z) 0x84 (.address ruleSty) s

def execStyZpX (z : Byte) (s : State) : Result :=
  execute .sty (.zeroPageX z) 0x94 (.address ruleSty) s

def execStyAbs (w : Addr) (s : State) : Result :=
  execute .sty (.absolute w) 0x8C (.address ruleSty) s

end Sys2Proof.Machine
end

