-- ==== Sys2Proof/Machine/LogicalAdc.lean ====
section
/-! DEFINITION. Logical operations and add-with-carry (46_logical_adc.md): what each kind does once its operand is resolved, and one meaning per
row of the opcode table, each one application of `execute` (R118) to the row's kind, operand form and opcode byte. -/

namespace Sys2Proof.Machine

/-- "`r <- A & m; A <- r; SetZN(r)`" (R190). -/
def ruleAnd (m : Byte) (s : State) : State :=
  let r := s.a &&& m
  (s.setA r).setZN r

/-! AND (R190), the table's rows. -/

def execAndImm (v : Byte) (s : State) : Result :=
  execute .and (.immediate v) 0x29 (.value ruleAnd) s

def execAndZp (z : Byte) (s : State) : Result :=
  execute .and (.zeroPage z) 0x25 (.value ruleAnd) s

def execAndZpX (z : Byte) (s : State) : Result :=
  execute .and (.zeroPageX z) 0x35 (.value ruleAnd) s

def execAndAbs (w : Addr) (s : State) : Result :=
  execute .and (.absolute w) 0x2D (.value ruleAnd) s

def execAndAbsX (w : Addr) (s : State) : Result :=
  execute .and (.absoluteX w) 0x3D (.value ruleAnd) s

def execAndAbsY (w : Addr) (s : State) : Result :=
  execute .and (.absoluteY w) 0x39 (.value ruleAnd) s

def execAndIndX (z : Byte) (s : State) : Result :=
  execute .and (.indexedIndirect z) 0x21 (.value ruleAnd) s

def execAndIndY (z : Byte) (s : State) : Result :=
  execute .and (.indirectIndexed z) 0x31 (.value ruleAnd) s

/-- "`r <- A | m; A <- r; SetZN(r)`" (R191). -/
def ruleOra (m : Byte) (s : State) : State :=
  let r := s.a ||| m
  (s.setA r).setZN r

/-! ORA (R191), the table's rows. -/

def execOraImm (v : Byte) (s : State) : Result :=
  execute .ora (.immediate v) 0x09 (.value ruleOra) s

def execOraZp (z : Byte) (s : State) : Result :=
  execute .ora (.zeroPage z) 0x05 (.value ruleOra) s

def execOraZpX (z : Byte) (s : State) : Result :=
  execute .ora (.zeroPageX z) 0x15 (.value ruleOra) s

def execOraAbs (w : Addr) (s : State) : Result :=
  execute .ora (.absolute w) 0x0D (.value ruleOra) s

def execOraAbsX (w : Addr) (s : State) : Result :=
  execute .ora (.absoluteX w) 0x1D (.value ruleOra) s

def execOraAbsY (w : Addr) (s : State) : Result :=
  execute .ora (.absoluteY w) 0x19 (.value ruleOra) s

def execOraIndX (z : Byte) (s : State) : Result :=
  execute .ora (.indexedIndirect z) 0x01 (.value ruleOra) s

def execOraIndY (z : Byte) (s : State) : Result :=
  execute .ora (.indirectIndexed z) 0x11 (.value ruleOra) s

/-- "`r <- A ^ m; A <- r; SetZN(r)`" (R192). -/
def ruleEor (m : Byte) (s : State) : State :=
  let r := s.a ^^^ m
  (s.setA r).setZN r

/-! EOR (R192), the table's rows. -/

def execEorImm (v : Byte) (s : State) : Result :=
  execute .eor (.immediate v) 0x49 (.value ruleEor) s

def execEorZp (z : Byte) (s : State) : Result :=
  execute .eor (.zeroPage z) 0x45 (.value ruleEor) s

def execEorZpX (z : Byte) (s : State) : Result :=
  execute .eor (.zeroPageX z) 0x55 (.value ruleEor) s

def execEorAbs (w : Addr) (s : State) : Result :=
  execute .eor (.absolute w) 0x4D (.value ruleEor) s

def execEorAbsX (w : Addr) (s : State) : Result :=
  execute .eor (.absoluteX w) 0x5D (.value ruleEor) s

def execEorAbsY (w : Addr) (s : State) : Result :=
  execute .eor (.absoluteY w) 0x59 (.value ruleEor) s

def execEorIndX (z : Byte) (s : State) : Result :=
  execute .eor (.indexedIndirect z) 0x41 (.value ruleEor) s

def execEorIndY (z : Byte) (s : State) : Result :=
  execute .eor (.indirectIndexed z) 0x51 (.value ruleEor) s

/-- Add with carry: the sum and C, V from `StatusRegister.addWithCarry`, then A, Z and N from the truncated sum
(R193); D is not read (R194). -/
def ruleAdc (m : Byte) (s : State) : State :=
  let (r, p) := s.p.addWithCarry s.a m
  ((s.setP p).setA r).setZN r

/-! ADC (R193), the table's rows. -/

def execAdcImm (v : Byte) (s : State) : Result :=
  execute .adc (.immediate v) 0x69 (.value ruleAdc) s

def execAdcZp (z : Byte) (s : State) : Result :=
  execute .adc (.zeroPage z) 0x65 (.value ruleAdc) s

def execAdcZpX (z : Byte) (s : State) : Result :=
  execute .adc (.zeroPageX z) 0x75 (.value ruleAdc) s

def execAdcAbs (w : Addr) (s : State) : Result :=
  execute .adc (.absolute w) 0x6D (.value ruleAdc) s

def execAdcAbsX (w : Addr) (s : State) : Result :=
  execute .adc (.absoluteX w) 0x7D (.value ruleAdc) s

def execAdcAbsY (w : Addr) (s : State) : Result :=
  execute .adc (.absoluteY w) 0x79 (.value ruleAdc) s

def execAdcIndX (z : Byte) (s : State) : Result :=
  execute .adc (.indexedIndirect z) 0x61 (.value ruleAdc) s

def execAdcIndY (z : Byte) (s : State) : Result :=
  execute .adc (.indirectIndexed z) 0x71 (.value ruleAdc) s

end Sys2Proof.Machine
end

