-- ==== Sys2Proof/Machine/Transfers.lean ====
section
/-! DEFINITION. Register transfers (44_transfers.md): what each kind does once its operand is resolved, and one meaning per
row of the opcode table, each one application of `execute` (R118) to the row's kind, operand form and opcode byte. -/

namespace Sys2Proof.Machine

/-- "`X <- A; SetZN(X)`" (R170). -/
def ruleTax (s : State) : State := (s.setX s.a).setZN s.a

/-! TAX (R170), the table's rows. -/

def execTax (s : State) : Result :=
  execute .tax .implied 0xAA (.none ruleTax) s

/-- "`A <- X; SetZN(A)`" (R171). -/
def ruleTxa (s : State) : State := (s.setA s.x).setZN s.x

/-! TXA (R171), the table's rows. -/

def execTxa (s : State) : Result :=
  execute .txa .implied 0x8A (.none ruleTxa) s

/-- "`Y <- A; SetZN(Y)`" (R172). -/
def ruleTay (s : State) : State := (s.setY s.a).setZN s.a

/-! TAY (R172), the table's rows. -/

def execTay (s : State) : Result :=
  execute .tay .implied 0xA8 (.none ruleTay) s

/-- "`A <- Y; SetZN(A)`" (R173). -/
def ruleTya (s : State) : State := (s.setA s.y).setZN s.y

/-! TYA (R173), the table's rows. -/

def execTya (s : State) : Result :=
  execute .tya .implied 0x98 (.none ruleTya) s

/-- "`X <- S; SetZN(X)`" (R174). -/
def ruleTsx (s : State) : State := (s.setX s.sp).setZN s.sp

/-! TSX (R174), the table's rows. -/

def execTsx (s : State) : Result :=
  execute .tsx .implied 0xBA (.none ruleTsx) s

/-- "`S <- X`", the only transfer that writes no flag (R175). -/
def ruleTxs (s : State) : State := s.setSp s.x

/-! TXS (R175), the table's rows. -/

def execTxs (s : State) : Result :=
  execute .txs .implied 0x9A (.none ruleTxs) s

end Sys2Proof.Machine
end

