-- ==== Sys2Proof/Machine/Cycle.lean ====
section
/-! DEFINITION. The fetch-decode-resolve-execute cycle of a running machine (R100), and how a word of the opcode
table is placed where the next cycle fetches. -/

namespace Sys2Proof.Machine

/-- The instruction fetched at pc, or the undefined opcode byte: the opcode byte, then as many operand bytes as its
mode takes, each through `FetchByte` (R100, R101, R106); an undefined byte fetches no operand (R102). -/
def fetchInstr (s : State) : Except Byte Instr × State :=
  let (opcode, s1) := fetchByte s
  match opcodeRow opcode with
  | none => (.error opcode, s1)
  | some (.op0 i) => (.ok i, s1)
  | some (.op1 f) =>
    let (v, s2) := fetchByte s1
    (.ok (f v), s2)
  | some (.op2 f) =>
    let (lo, s2) := fetchByte s1
    let (hi, s3) := fetchByte s2
    (.ok (f (concat hi lo)), s3)

/-- `n` bytes through `FetchByte`, in order (R101). -/
def fetchBytes : Nat → State → List Byte × State
  | 0, s => ([], s)
  | n + 1, s =>
    let (b, s1) := fetchByte s
    let (bs, s2) := fetchBytes n s1
    (b :: bs, s2)

/-- One cycle of a running machine (R100): an undefined byte raises DecodeFailure (R102, R251). -/
def cycle (s : State) : Result :=
  match fetchInstr s with
  | (.error opcode, s1) => .next (raise (.decodeFailure opcode s.pc) s1)
  | (.ok i, s1) => exec i s1

/-! ## Placing an instruction (the load of a program from outside the machine) [log 6] -/

/-- A byte placed in the cell an address fetches from: RAM, or the image. -/
def placeByte (addr : Addr) (v : Byte) (s : State) : State :=
  match route s.cfg.prgLen addr with
  | .ram off => s.setRam (s.ram.write off v)
  | .rom off => { s with cfg := { s.cfg with prg := s.cfg.prg.write off v } }
  | .device _ _ => s
  | .unmapped => s

/-- Bytes placed from an address upward. -/
def placeBytes : List Byte → Addr → State → State
  | [], _, s => s
  | b :: bs, addr, s => placeBytes bs (addr + 1) (placeByte addr b s)

/-- A fetch at the address reads a cell that can be loaded (RAM or the image). -/
def loadable (prgLen : Nat) (addr : Addr) : Bool :=
  match route prgLen addr with
  | .ram _ => true
  | .rom _ => true
  | .device _ _ => false
  | .unmapped => false

/-- The state made ready to fetch a placed instruction: an admitted length, status Running, and pc at a place that can
be loaded; a state that is so already is left as it is. -/
def readyToFetch (s : State) : State :=
  let s1 := if s.cfg.admitted then s else { s with cfg := { s.cfg with prgLen := 0x4000 } }
  let s2 := s1.setStatus .running
  if loadable s2.cfg.prgLen s2.pc && loadable s2.cfg.prgLen (s2.pc + 1) && loadable s2.cfg.prgLen (s2.pc + 2)
  then s2 else s2.setPc 0x0000

/-- The opcode-table word stored where the next cycle fetches. -/
def placeWord (s : State) (nbits w : Nat) : State :=
  let s1 := readyToFetch s
  placeBytes (tableBytes nbits w) s1.pc s1

end Sys2Proof.Machine
end

