-- ==== Sys2Proof/Machine/Step.lean ====
section
/-! DEFINITION. One call of `step()` (R100): refused for an image length that is not admitted (R60), no step in a
Faulted state (R256), else one cycle. -/

namespace Sys2Proof.Machine

/-- `step()`: "one fetch-decode-execute cycle" of a Running machine (R100). -/
def step (s : State) : Host.Outcome State Fault Refusal :=
  if s.cfg.admitted then
    match s.status with
    | .running => cycle s
    | .faulted f => .fault f
  else .refused .romLength

/-- The state with an opcode-table word stored where `step` fetches its next instruction [log 6]. -/
def State.withFetchWord (s : State) (nbits w : Nat) : State := placeWord s nbits w

end Sys2Proof.Machine
end

