-- ==== Sys2Proof/Safety.lean ====
section
/-! DEFINITION. The terms claims use: the invariant of a machine's states, the spec's own outcomes of a step (R10), the
host's moves (R269) and the end of a run (R270). -/

namespace Sys2Proof.Machine

/-- The operand value of an instruction in a state whose pc is past it: an immediate, or one read of the resolved
address (R120), with the state after the reads. -/
def operandOf (i : Instr) (s : State) : Option (Byte × State) :=
  operandValue (resolve i.addressing s).1 (resolve i.addressing s).2

/-- The resolved address of an instruction, with the state after the pointer reads (R103); none where the operand is
no address. -/
def addressOf (i : Instr) (s : State) : Option (Addr × State) :=
  match resolve i.addressing s with
  | (.address a, s1) => some (a, s1)
  | (.immediate _, _) => none
  | (.none, _) => none

/-- What every state of a machine meets: RAM and the image are in canonical form and within their arrays (R64, R60),
`P.R` is true (R29), `P.B` is false (R31, D21), and no OperandShapeMismatch is recorded (R253). -/
structure State.Inv (s : State) : Prop where
  ramCanonical : s.ram.wf
  ramBound : s.ram.below 0x800
  prgCanonical : s.cfg.prg.wf
  prgBound : s.cfg.prg.below s.cfg.prgLen
  reservedTrue : s.p.r = true
  breakFalse : s.p.b = false
  noShapeMismatch : ∀ k m, s.status ≠ .faulted (.operandShapeMismatch k m)

/-- "`Ok(state')`: the instruction completed" (R10). -/
def completes (s t : State) : Prop := step s = .next t ∧ t.status = .running

/-- "`Fault(code, info)`" (R10): the step raised `f` and left the state `t` [log 1]. -/
def raises (s : State) (f : Fault) (t : State) : Prop := step s = .next t ∧ t.status = .faulted f

/-- What the host may call between steps once a machine is configured (R269). -/
inductive HostCall where
  | reset
  | step
  deriving DecidableEq, Repr

/-- The effect of a host call (R269). -/
def hostCall : HostCall → State → Result
  | .reset, s => .next (hostReset s)
  | .step, s => step s

/-- The states the host can bring a configured machine to (R269, R286). -/
inductive Reachable (cfg : Config) (ramInit : Memory) : State → Prop where
  | configured {s : State} (h : configure cfg ramInit = .next s) : Reachable cfg ramInit s
  | called {s t : State} (c : HostCall) (hs : Reachable cfg ramInit s) (h : hostCall c s = .next t) :
      Reachable cfg ramInit t

/-- The end of a run at a step boundary: status Running and pc in `stop_addrs` (R270) [log 9]. -/
def runEnded (stopAddrs : List Addr) (s : State) : Prop := s.status = .running ∧ s.pc ∈ stopAddrs

end Sys2Proof.Machine
end

