-- ==== Sys2Proof/Certificates/Slice0/Obligations.lean ====
section
/-! DEFINITION. The statements for the provers, from the numbered rules of spec/. A statement about the device draws holds
for every value of `Config.devRead`, and one about RAM or the image holds for every RAM and image. -/

open Sys2Proof Sys2Proof.Machine

/-! ## Reset, power-on and configuration -/

/-- R281: reset zeroes A, X, Y, S, clears every flag but `reserved`, loads pc little-endian from the bus at 0xFFFC and
0xFFFD (image bytes, at the offsets R281 names for the two lengths), sets the status Running, and leaves everything
else alone; the two reads draw nothing. (The offsets and the drawing of nothing are marked [derived: from 20_memory.md rule
R59]; that RAM stays is R282's decision D34; that the history stays is the model's choice [log 4].) -/
def Obligations.ResetZeroesRegistersAndLoadsVector : Prop :=
  ∀ s : State,
    hostReset s =
      { s with
        a := 0x00, x := 0x00, y := 0x00, sp := 0x00
        p := { n := false, v := false, r := true, b := false, d := false, i := false, z := false, c := false }
        pc := concat (busRead 0xFFFD s).1 (busRead 0xFFFC s).1
        status := .running } ∧
    (busRead 0xFFFC s).2 = s ∧ (busRead 0xFFFD s).2 = s ∧
    (s.cfg.prgLen = 0x4000 → (hostReset s).pc = concat (s.cfg.prg.read 0x3FFD) (s.cfg.prg.read 0x3FFC)) ∧
    (0x8000 ≤ s.cfg.prgLen → (hostReset s).pc = concat (s.cfg.prg.read 0x7FFD) (s.cfg.prg.read 0x7FFC))

/-- R283: two resets in a row give the same state as one, in any state, Faulted included (the spec marks this sentence
[derived: from rules R281 and R282]). -/
def Obligations.ResetTwiceIsResetOnce : Prop :=
  ∀ s : State, hostReset (hostReset s) = hostReset s

/-- R280: an admitted configuration powers on with every register 0, every flag false but `reserved`, pack(P) = 0x20,
status Running, pc 0x0000 and RAM = `ram_init`; the vector is not read. (RAM = `ram_init` is the spec's decision D14.) -/
def Obligations.PowerOnZeroesTheRegisterFile : Prop :=
  ∀ (c : Config) (ramInit : Memory), c.admitted = true →
    ∃ t, configure c ramInit = .next t ∧
      t.a = 0x00 ∧ t.x = 0x00 ∧ t.y = 0x00 ∧ t.sp = 0x00 ∧ t.pc = 0x0000 ∧
      t.p = { n := false, v := false, r := true, b := false, d := false, i := false, z := false, c := false } ∧
      t.p.pack = 0x20 ∧ t.status = .running ∧ t.ram = ramInit ∧ t.cfg = c

/-- R60: a length that is neither 0x4000 nor at least 0x8000 is refused, at configuration and at every step; any other
length is admitted, and then every address of the ROM window reaches a byte inside the array, below 0x8000. (The spec's
decision D13; that `step` itself checks the length is the model's choice [log 2].) -/
def Obligations.RomLengthDecidesAdmission : Prop :=
  ∀ c : Config,
    (c.prgLen ≠ 0x4000 → c.prgLen < 0x8000 →
      (∀ ramInit, configure c ramInit = .refused .romLength) ∧
      (∀ s : State, s.cfg = c → step s = .refused .romLength)) ∧
    (c.prgLen = 0x4000 ∨ 0x8000 ≤ c.prgLen →
      (∀ ramInit, configure c ramInit = .next (State.powerOn c ramInit)) ∧
      (∀ addr : Addr, 0x8000 ≤ addr.toNat → romOffset c.prgLen addr < c.prgLen ∧ romOffset c.prgLen addr < 0x8000))

/-- The state after reset meets the invariant, and it is the host's reset of the power-on state. The image, its length
and RAM of that state are the model's choice [log 2, log 3]; the invariant does not depend on them. -/
def Obligations.ResetStateMeetsTheInvariant : Prop :=
  State.reset.Inv ∧ State.reset = hostReset (State.powerOn Config.default [])

/-- The invariant is kept by every step: canonical RAM and image, `P.R` true (R29), `P.B` false (R31), no
OperandShapeMismatch (R253). -/
def Obligations.StepKeepsTheInvariant : Prop :=
  ∀ s t : State, s.Inv → step s = .next t → t.Inv

/-- Every state that the host can bring a machine to meets the invariant, whatever the configuration and `ram_init`
(R269, R286); StepKeepsTheInvariant is the step of it. -/
def Obligations.ReachableStatesMeetTheInvariant : Prop :=
  ∀ (c : Config) (ramInit : Memory) (s : State),
    c.prg.wf → c.prg.below c.prgLen → ramInit.wf → ramInit.below 0x800 → Reachable c ramInit s → s.Inv

/-! ## The step -/

/-- R100: when the bytes a running machine fetches at pc are an instruction `i`, its step is `exec i` at the state after
those fetches. -/
def Obligations.StepRunsTheDecodedInstruction : Prop :=
  ∀ (s : State) (n : Nat) (i : Instr), s.cfg.admitted = true → s.status = .running →
    decode (fetchBytes n s).1 = .ok (i, []) → step s = exec i (fetchBytes n s).2

/-- R101, R26: a fetch reads the byte at pc through the bus and then advances pc by one, 0xFFFF wrapping to 0x0000. -/
def Obligations.FetchReadsThenAdvancesPc : Prop :=
  ∀ s : State,
    (fetchByte s).1 = (busRead s.pc s).1 ∧
    (fetchByte s).2 = { (busRead s.pc s).2 with pc := BitVec.ofNat 16 ((s.pc.toNat + 1) % 2 ^ 16) }

/-- R102: an undefined opcode byte ends the step with DecodeFailure, recording the byte and its address, with pc one past
it (marked [derived: from rule R100 and rule R101]) and nothing else changed beyond the opcode fetch itself. That the
fault is recorded in a next state is read from R256 [log 1]. -/
def Obligations.UndefinedOpcodeRaisesDecodeFailure : Prop :=
  ∀ s : State, s.cfg.admitted = true → s.status = .running → decodeOpcode (busRead s.pc s).1 = none →
    step s = .next
      { (busRead s.pc s).2 with
        pc := s.pc + 1, status := .faulted (.decodeFailure (busRead s.pc s).1 s.pc) }

/-- R256: a Faulted machine has no step (the model answers the recorded fault), its state is no end of a run, and the
host's reset sets the status back to Running. The answer of `step` there is the model's choice [log 1]. -/
def Obligations.FaultedMachineTakesNoStep : Prop :=
  ∀ (s : State) (f : Fault), s.cfg.admitted = true → s.status = .faulted f →
    step s = .fault f ∧ (∀ stop, ¬ runEnded stop s) ∧ (hostReset s).status = .running

/-- R289, R100: a running machine with an admitted image always has a next state; a fault is recorded in it [log 1]. -/
def Obligations.RunningMachineAlwaysSteps : Prop :=
  ∀ s : State, s.cfg.admitted = true → s.status = .running → ∃ t, step s = .next t

/-- R63, R289: a step only adds device events, after the earlier ones, and at most 6 (R289 marks the bound under
`full_isa` [derived: from 48_unimplemented.md rule R211]). -/
def Obligations.StepAddsAtMostSixDeviceEvents : Prop :=
  ∀ s t : State, step s = .next t → ∃ es, t.history = s.history ++ es ∧ es.length ≤ 6

/-- R66, R282: `prg` is changed by no step and by no reset, and neither is the rest of the configuration. (That the length
and the parameters are fields of State, which no step and no reset changes, is the model's choice [log 2].) -/
def Obligations.ConfigurationNeverChanges : Prop :=
  (∀ s t : State, step s = .next t → t.cfg = s.cfg) ∧ (∀ s : State, (hostReset s).cfg = s.cfg)

/-- R258: a step that faults leaves the state before it, with only pc advanced over the bytes consumed, and device reads
of the fetch and resolver phases. (The recording in a next state is the model's reading [log 1]. That the fault is one of
these two is marked [derived: from 40_step_addressing.md rule R119] in R253, and that UnimplementedInstruction comes after
the resolver is decision D9.) -/
def Obligations.FaultsArePrecise : Prop :=
  ∀ (s t : State) (f : Fault), step s = .next t → t.status = .faulted f →
    ∃ (es : List DevEvent) (n : Nat),
      t = { s with pc := s.pc + BitVec.ofNat 16 n, history := s.history ++ es, status := .faulted f } ∧
      (∀ e ∈ es, ∃ dev off, e = .read dev off) ∧
      ((∃ opcode, f = .decodeFailure opcode s.pc ∧ n = 1) ∨
        (∃ k m opcode, f = .unimplementedInstruction k m opcode s.pc ∧ n = 1 + m.operandCount))

/-- R253, R119: with the spec's table no step raises OperandShapeMismatch (marked [derived: from 40_step_addressing.md rule
R119]). -/
def Obligations.NoStepRaisesOperandShapeMismatch : Prop :=
  ∀ s t : State, step s = .next t → ∀ k m, t.status ≠ .faulted (.operandShapeMismatch k m)

/-- R210: with `full_isa` false each of the 19 kinds resolves its operand and raises UnimplementedInstruction with its
kind, mode, opcode and fetch address; nothing but the status changes after the resolver's reads (the set of kinds and
the reads are the spec's decisions D3 and D9). The fault in a next state and the fetch address as pc minus the length are
the model's reading [log 1, log 5]. -/
def Obligations.UnimplementedKindsFaultInTheCore : Prop :=
  ∀ (i : Instr) (s : State),
    i.kind ∈ [Kind.asl, .bit, .brk, .cmp, .cpx, .cpy, .dec, .inc, .jsr, .lsr, .pha, .php, .pla, .plp, .rol, .ror,
      .rti, .rts, .sbc] →
    s.cfg.fullIsa = false →
    exec i s = .next
      { (resolve i.addressing s).2 with
        status := .faulted
          (.unimplementedInstruction i.kind i.mode i.opcodeByte (s.pc - BitVec.ofNat 16 i.length)) }

/-- R118: an instruction of the 37 kinds, and under `full_isa` any instruction, leaves the run status as it was. -/
def Obligations.ExecutedInstructionsLeaveTheStatus : Prop :=
  ∀ (i : Instr) (s t : State), exec i s = .next t →
    (i.kind ∉ [Kind.asl, .bit, .brk, .cmp, .cpx, .cpy, .dec, .inc, .jsr, .lsr, .pha, .php, .pla, .plp, .rol, .ror,
      .rti, .rts, .sbc] ∨ s.cfg.fullIsa = true) →
    t.status = s.status

/-! ## Encoding -/

/-- One word of each family and of every mode, written out from R85 and R82, decodes to its instruction. (R85 marks the map
[from general knowledge, not in source]: K1.) -/
def Obligations.WordsOfEachFamilyDecode : Prop :=
  decode [0b10101001, 0x05] = .ok (.ldaImm 0x05, []) ∧
  decode [0b10010110, 0xF0] = .ok (.stxZpY 0xF0, []) ∧
  decode [0b10111101, 0xFF, 0x12] = .ok (.ldaAbsX 0x12FF, []) ∧
  decode [0b10111001, 0x90, 0x02] = .ok (.ldaAbsY 0x0290, []) ∧
  decode [0b00111000] = .ok (.sec, []) ∧
  decode [0b11010000, 0xFB] = .ok (.bneRel 0xFB, []) ∧
  decode [0b10011010] = .ok (.txs, []) ∧
  decode [0b10001000] = .ok (.dey, []) ∧
  decode [0b01110001, 0x20] = .ok (.adcIndY 0x20, []) ∧
  decode [0b00000001, 0xFF] = .ok (.oraIndX 0xFF, []) ∧
  decode [0b01101100, 0xFF, 0x02] = .ok (.jmpInd 0x02FF, []) ∧
  decode [0b01101010] = .ok (.rorAcc, []) ∧
  decode [0b11110110, 0x80] = .ok (.incZpX 0x80, []) ∧
  decode [0b00100000, 0x00, 0x90] = .ok (.jsrAbs 0x9000, []) ∧
  decode [0b00100100, 0x10] = .ok (.bitZp 0x10, [])

/-- R88: 151 bytes are defined and 105 are not, with the count R88 gives for each mode; all 56 kinds appear (marked
[derived: from rule R85]). -/
def Obligations.OpcodeMapHasTheStatedCounts : Prop :=
  let ops := (List.range 256).filterMap (fun n => decodeOpcode (BitVec.ofNat 8 n))
  let count := fun (m : Mode) => (ops.filter (fun o => o.mode == m)).length
  ops.length = 151 ∧ 256 - ops.length = 105 ∧ (ops.map (·.kind)).eraseDups.length = 56 ∧
  count .implied = 25 ∧ count .accumulator = 4 ∧ count .immediate = 11 ∧ count .zeroPage = 21 ∧
  count .zeroPageX = 16 ∧ count .zeroPageY = 2 ∧ count .absolute = 23 ∧ count .absoluteX = 15 ∧
  count .absoluteY = 9 ∧ count .relative = 8 ∧ count .indexedIndirect = 8 ∧ count .indirectIndexed = 8 ∧
  count .absoluteIndirect = 1

/-- R86: the undefined bytes are exactly the 105 it lists, and fetching one raises DecodeFailure, whatever the
configuration. (R85 marks the map [from general knowledge, not in source]: K1. The fault in a next state is the model's
reading [log 1].) -/
def Obligations.UndefinedBytesAreTheStatedOnes : Prop :=
  ∀ b : Byte,
    (decodeOpcode b = none ↔ b ∈
      ([0x02, 0x03, 0x04, 0x07, 0x0B, 0x0C, 0x0F, 0x12, 0x13, 0x14, 0x17, 0x1A, 0x1B, 0x1C, 0x1F] ++
      [0x22, 0x23, 0x27, 0x2B, 0x2F, 0x32, 0x33, 0x34, 0x37, 0x3A, 0x3B, 0x3C, 0x3F, 0x42, 0x43] ++
      [0x44, 0x47, 0x4B, 0x4F, 0x52, 0x53, 0x54, 0x57, 0x5A, 0x5B, 0x5C, 0x5F, 0x62, 0x63, 0x64] ++
      [0x67, 0x6B, 0x6F, 0x72, 0x73, 0x74, 0x77, 0x7A, 0x7B, 0x7C, 0x7F, 0x80, 0x82, 0x83, 0x87] ++
      [0x89, 0x8B, 0x8F, 0x92, 0x93, 0x97, 0x9B, 0x9C, 0x9E, 0x9F, 0xA3, 0xA7, 0xAB, 0xAF, 0xB2] ++
      [0xB3, 0xB7, 0xBB, 0xBF, 0xC2, 0xC3, 0xC7, 0xCB, 0xCF, 0xD2, 0xD3, 0xD4, 0xD7, 0xDA, 0xDB] ++
      [0xDC, 0xDF, 0xE2, 0xE3, 0xE7, 0xEB, 0xEF, 0xF2, 0xF3, 0xF4, 0xF7, 0xFA, 0xFB, 0xFC, 0xFF] : List Byte)) ∧
    (∀ s : State, s.cfg.admitted = true → s.status = .running → (busRead s.pc s).1 = b → decodeOpcode b = none →
      ∃ t, step s = .next t ∧ t.status = .faulted (.decodeFailure b s.pc))

/-- Every instruction, at every operand value, is read back from its encoding, whatever bytes follow. -/
def Obligations.DecodeReadsBackEveryEncoding : Prop :=
  ∀ (i : Instr) (rest : List Byte), decode (encode i ++ rest) = .ok (i, rest)

/-- R84, R90: whatever bytes decode to an instruction are that instruction's encoding, and it is a row of the table: no
other bytes stand for it. -/
def Obligations.DecodedBytesAreTheEncoding : Prop :=
  ∀ (bs rest : List Byte) (i : Instr), decode bs = .ok (i, rest) → bs = encode i ++ rest ∧ i.wellFormed = true

/-! ## The bus -/

/-- R52, R59, R61: the read and the write of every address, range by range, in the dispatch order (the local offsets are
the spec's decision D11, the devices' draws and events D12). -/
def Obligations.BusFollowsTheAddressMap : Prop :=
  ∀ (s : State) (addr : Addr) (v : Byte),
    (addr.toNat ≤ 0x1FFF →
      busRead addr s = (s.ram.read (addr.toNat % 0x800), s) ∧
      busWrite addr v s = { s with ram := s.ram.write (addr.toNat % 0x800) v }) ∧
    (0x2000 ≤ addr.toNat → addr.toNat ≤ 0x3FFF →
      busRead addr s =
        (Config.devRead s.history .ppu (BitVec.ofNat 16 (addr.toNat % 8)),
          { s with history := s.history ++ [.read .ppu (BitVec.ofNat 16 (addr.toNat % 8))] }) ∧
      busWrite addr v s = { s with history := s.history ++ [.write .ppu (BitVec.ofNat 16 (addr.toNat % 8)) v] }) ∧
    (addr = 0x4016 →
      busRead addr s = (Config.devRead s.history .pad 0, { s with history := s.history ++ [.read .pad 0] }) ∧
      busWrite addr v s = { s with history := s.history ++ [.write .pad 0 v] }) ∧
    (addr = 0x4014 →
      busRead addr s = (Config.devRead s.history .dma 0, { s with history := s.history ++ [.read .dma 0] }) ∧
      busWrite addr v s = { s with history := s.history ++ [.write .dma 0 v] }) ∧
    (0x4000 ≤ addr.toNat → addr.toNat ≤ 0x401F → addr ≠ 0x4014 → addr ≠ 0x4016 →
      busRead addr s =
        (Config.devRead s.history .apu (addr - 0x4000), { s with history := s.history ++ [.read .apu (addr - 0x4000)] }) ∧
      busWrite addr v s = { s with history := s.history ++ [.write .apu (addr - 0x4000) v] }) ∧
    (0x4020 ≤ addr.toNat → addr.toNat ≤ 0x7FFF → busRead addr s = (0x00, s) ∧ busWrite addr v s = s) ∧
    (0x8000 ≤ addr.toNat →
      busRead addr s =
        (s.cfg.prg.read
          (if s.cfg.prgLen ≤ 0x4000 then (addr.toNat - 0x8000) % 0x4000 else addr.toNat - 0x8000), s) ∧
      busWrite addr v s = s)

/-- R54: a write through any RAM address is read back through every alias of the byte, and through no other RAM address is
any byte changed. For every other address, RamWriteChangesNoOtherRead. -/
def Obligations.RamMirrorsNameTheSameByte : Prop :=
  ∀ (s : State) (addr addr' : Addr) (v : Byte), s.ram.wf →
    addr.toNat ≤ 0x1FFF → addr'.toNat ≤ 0x1FFF →
    (addr.toNat % 0x800 = addr'.toNat % 0x800 → busRead addr' (busWrite addr v s) = (v, busWrite addr v s)) ∧
    (addr.toNat % 0x800 ≠ addr'.toNat % 0x800 →
      (busRead addr' (busWrite addr v s)).1 = (busRead addr' s).1)

/-- A write to a RAM address changes what no address reads but the aliases of its byte, whether the address read is in RAM,
a device window, unmapped or in ROM; a device draws the same byte as before, since the write adds no event (R52, R54, R63;
the draws are the spec's decision D12). -/
def Obligations.RamWriteChangesNoOtherRead : Prop :=
  ∀ (s : State) (addr addr' : Addr) (v : Byte), addr.toNat ≤ 0x1FFF →
    (addr'.toNat ≤ 0x1FFF → addr.toNat % 0x800 ≠ addr'.toNat % 0x800) →
    (busRead addr' (busWrite addr v s)).1 = (busRead addr' s).1

/-- A bus write changes no byte of memory but the RAM byte its address names, whatever device, image or unmapped address
it goes to (R51, R59, R61, R64). -/
def Obligations.BusWriteChangesOnlyItsByte : Prop :=
  ∀ (s : State) (addr other : Addr) (v : Byte), ¬ sameRamByte addr other →
    (busWrite addr v s).peek other = s.peek other

/-! ## The addressing resolver -/

/-- R104 to R112: the modes that read no pointer, with their wraps, in integer arithmetic. -/
def Obligations.ResolverComputesDirectModes : Prop :=
  ∀ (s : State) (z : Byte) (w : Addr),
    resolve .implied s = (.none, s) ∧
    resolve .accumulator s = (.none, s) ∧
    resolve (.immediate z) s = (.immediate z, s) ∧
    resolve (.absolute w) s = (.address w, s) ∧
    resolve (.zeroPage z) s = (.address (BitVec.ofNat 16 z.toNat), s) ∧
    resolve (.zeroPageX z) s = (.address (BitVec.ofNat 16 ((z.toNat + s.x.toNat) % 256)), s) ∧
    resolve (.zeroPageY z) s = (.address (BitVec.ofNat 16 ((z.toNat + s.y.toNat) % 256)), s) ∧
    resolve (.absoluteX w) s = (.address (BitVec.ofNat 16 (w.toNat + s.x.toNat)), s) ∧
    resolve (.absoluteY w) s = (.address (BitVec.ofNat 16 (w.toNat + s.y.toNat)), s) ∧
    resolve (.relative z) s =
      (.address (BitVec.ofInt 16 (s.pc.toNat + (if 0x80 ≤ z.toNat then (z.toNat : Int) - 256 else z.toNat))), s)

/-- R113 to R115: the indirect modes, low byte read first, the high byte's address wrapped within page 0 or within the
pointer's page. -/
def Obligations.ResolverFollowsPointers : Prop :=
  ∀ (s : State) (z : Byte) (w : Addr),
    (let lo := busRead (BitVec.ofNat 16 ((z.toNat + s.x.toNat) % 256)) s
     let hi := busRead (BitVec.ofNat 16 ((z.toNat + s.x.toNat + 1) % 256)) lo.2
     resolve (.indexedIndirect z) s = (.address (BitVec.ofNat 16 (hi.1.toNat * 256 + lo.1.toNat)), hi.2)) ∧
    (let lo := busRead (BitVec.ofNat 16 z.toNat) s
     let hi := busRead (BitVec.ofNat 16 ((z.toNat + 1) % 256)) lo.2
     resolve (.indirectIndexed z) s =
       (.address (BitVec.ofNat 16 (hi.1.toNat * 256 + lo.1.toNat + s.y.toNat)), hi.2)) ∧
    (let lo := busRead w s
     let hi := busRead (BitVec.ofNat 16 (w.toNat / 256 * 256 + (w.toNat + 1) % 256)) lo.2
     resolve (.absoluteIndirect w) s = (.address (BitVec.ofNat 16 (hi.1.toNat * 256 + lo.1.toNat)), hi.2))

/-- R103: the resolver never writes: it adds at most two device reads to the history and changes nothing else. -/
def Obligations.ResolverWritesNothing : Prop :=
  ∀ (form : Addressing) (s : State), ∃ es : List DevEvent,
    (resolve form s).2 = { s with history := s.history ++ es } ∧ es.length ≤ 2 ∧ ∀ e ∈ es, ∃ dev off, e = .read dev off

/-- R120: an immediate operand is its own value with no bus access; an address operand costs exactly one read. -/
def Obligations.OperandValueIsImmediateOrOneRead : Prop :=
  ∀ (s : State) (v : Byte) (addr : Addr),
    operandValue (.immediate v) s = some (v, s) ∧ operandValue (.address addr) s = some (busRead addr s)

/-! ## The 37 kinds of the CORE -/

/-- R130, R131, R132: LDA, LDX, LDY, in every mode, put the operand value in their register and set Z and N from it, each
independently. (Marked by the spec as general knowledge: the register each names, K7; the opcode bytes, K1.) -/
def Obligations.LoadsWriteTheirRegisterAndSetZN : Prop :=
  ∀ (i : Instr) (s : State),
    (i.kind = .lda →
      (i.mode, i.opcodeByte) ∈ ([(.indexedIndirect, 0xA1), (.zeroPage, 0xA5), (.immediate, 0xA9), (.absolute, 0xAD),
        (.indirectIndexed, 0xB1), (.zeroPageX, 0xB5), (.absoluteY, 0xB9), (.absoluteX, 0xBD)] : List (Mode × Byte)) ∧
      ∃ v s1, operandOf i s = some (v, s1) ∧
      exec i s = .next { s1 with a := v, p := { s1.p with z := (v == 0x00), n := v.getLsbD 7 } }) ∧
    (i.kind = .ldx →
      (i.mode, i.opcodeByte) ∈ ([(.immediate, 0xA2), (.zeroPage, 0xA6), (.absolute, 0xAE), (.zeroPageY, 0xB6),
        (.absoluteY, 0xBE)] : List (Mode × Byte)) ∧
      ∃ v s1, operandOf i s = some (v, s1) ∧
      exec i s = .next { s1 with x := v, p := { s1.p with z := (v == 0x00), n := v.getLsbD 7 } }) ∧
    (i.kind = .ldy →
      (i.mode, i.opcodeByte) ∈ ([(.immediate, 0xA0), (.zeroPage, 0xA4), (.absolute, 0xAC), (.zeroPageX, 0xB4),
        (.absoluteX, 0xBC)] : List (Mode × Byte)) ∧
      ∃ v s1, operandOf i s = some (v, s1) ∧
      exec i s = .next { s1 with y := v, p := { s1.p with z := (v == 0x00), n := v.getLsbD 7 } })

/-- R133, R134, R135: STA, STX, STY, in every mode, make exactly one bus write of their register at the resolved address,
and no other change. (Marked by the spec as general knowledge: the register each names, K7; the opcode bytes, K1.) -/
def Obligations.StoresMakeOneBusWrite : Prop :=
  ∀ (i : Instr) (s : State),
    (i.kind = .sta →
      (i.mode, i.opcodeByte) ∈ ([(.indexedIndirect, 0x81), (.zeroPage, 0x85), (.absolute, 0x8D), (.indirectIndexed, 0x91),
        (.zeroPageX, 0x95), (.absoluteY, 0x99), (.absoluteX, 0x9D)] : List (Mode × Byte)) ∧
      ∃ addr s1, addressOf i s = some (addr, s1) ∧ exec i s = .next (busWrite addr s.a s1)) ∧
    (i.kind = .stx →
      (i.mode, i.opcodeByte) ∈ ([(.zeroPage, 0x86), (.absolute, 0x8E), (.zeroPageY, 0x96)] : List (Mode × Byte)) ∧
      ∃ addr s1, addressOf i s = some (addr, s1) ∧ exec i s = .next (busWrite addr s.x s1)) ∧
    (i.kind = .sty →
      (i.mode, i.opcodeByte) ∈ ([(.zeroPage, 0x84), (.absolute, 0x8C), (.zeroPageX, 0x94)] : List (Mode × Byte)) ∧
      ∃ addr s1, addressOf i s = some (addr, s1) ∧ exec i s = .next (busWrite addr s.y s1))

/-- R150 to R156: each flag-control instruction writes its literal to its flag, and nothing else. (Marked by the spec as
general knowledge: the literals, K3; the opcode bytes, K1.) -/
def Obligations.FlagControlWritesOneFlag : Prop :=
  ∀ s : State,
    encode .clc = [0x18] ∧ encode .sec = [0x38] ∧ encode .cli = [0x58] ∧ encode .sei = [0x78] ∧
    encode .cld = [0xD8] ∧ encode .sed = [0xF8] ∧ encode .clv = [0xB8] ∧
    exec .clc s = .next { s with p := { s.p with c := false } } ∧
    exec .sec s = .next { s with p := { s.p with c := true } } ∧
    exec .cli s = .next { s with p := { s.p with i := false } } ∧
    exec .sei s = .next { s with p := { s.p with i := true } } ∧
    exec .cld s = .next { s with p := { s.p with d := false } } ∧
    exec .sed s = .next { s with p := { s.p with d := true } } ∧
    exec .clv s = .next { s with p := { s.p with v := false } }

/-- R160 to R168: each branch tests its flag against its polarity and either sets pc to the pc past the operand plus the
signed offset, modulo 2^16, or leaves it; nothing else changes (R160 marks the polarities [from general knowledge,
not in source]). -/
def Obligations.BranchesTestTheirFlag : Prop :=
  ∀ (s : State) (off : Byte),
    let target := BitVec.ofInt 16 (s.pc.toNat + (if 0x80 ≤ off.toNat then (off.toNat : Int) - 256 else off.toNat))
    encode (.bccRel off) = [0x90, off] ∧ encode (.bcsRel off) = [0xB0, off] ∧ encode (.beqRel off) = [0xF0, off] ∧
    encode (.bneRel off) = [0xD0, off] ∧ encode (.bvcRel off) = [0x50, off] ∧ encode (.bvsRel off) = [0x70, off] ∧
    encode (.bplRel off) = [0x10, off] ∧ encode (.bmiRel off) = [0x30, off] ∧
    exec (.bccRel off) s = .next (if s.p.c = false then { s with pc := target } else s) ∧
    exec (.bcsRel off) s = .next (if s.p.c = true then { s with pc := target } else s) ∧
    exec (.beqRel off) s = .next (if s.p.z = true then { s with pc := target } else s) ∧
    exec (.bneRel off) s = .next (if s.p.z = false then { s with pc := target } else s) ∧
    exec (.bvcRel off) s = .next (if s.p.v = false then { s with pc := target } else s) ∧
    exec (.bvsRel off) s = .next (if s.p.v = true then { s with pc := target } else s) ∧
    exec (.bplRel off) s = .next (if s.p.n = false then { s with pc := target } else s) ∧
    exec (.bmiRel off) s = .next (if s.p.n = true then { s with pc := target } else s)

/-- R170 to R175: each transfer copies its source register; all but TXS set Z and N from the copied value. (Marked by the
spec as general knowledge: source and destination, K5; the opcode bytes, K1.) -/
def Obligations.TransfersCopyOneRegister : Prop :=
  ∀ s : State,
    encode .tax = [0xAA] ∧ encode .txa = [0x8A] ∧ encode .tay = [0xA8] ∧ encode .tya = [0x98] ∧
    encode .tsx = [0xBA] ∧ encode .txs = [0x9A] ∧
    exec .tax s = .next { s with x := s.a, p := { s.p with z := (s.a == 0x00), n := s.a.getLsbD 7 } } ∧
    exec .txa s = .next { s with a := s.x, p := { s.p with z := (s.x == 0x00), n := s.x.getLsbD 7 } } ∧
    exec .tay s = .next { s with y := s.a, p := { s.p with z := (s.a == 0x00), n := s.a.getLsbD 7 } } ∧
    exec .tya s = .next { s with a := s.y, p := { s.p with z := (s.y == 0x00), n := s.y.getLsbD 7 } } ∧
    exec .tsx s = .next { s with x := s.sp, p := { s.p with z := (s.sp == 0x00), n := s.sp.getLsbD 7 } } ∧
    exec .txs s = .next { s with sp := s.x }

/-- R180 to R184: INX, INY, DEX, DEY saturate at 0xFF and 0x00, or wrap modulo 256 when `incdec_wrap` is true, and set Z
and N from the new value; C and V are not changed (the parameter is the spec's decision D4). (Marked by the spec as
general knowledge: register and direction, K6; the opcode bytes, K1.) -/
def Obligations.IncrementsSaturateOrWrap : Prop :=
  ∀ s : State,
    let inc := fun v : Byte => if s.cfg.incdecWrap then v + 1 else if v = 0xFF then 0xFF else v + 1
    let dec := fun v : Byte => if s.cfg.incdecWrap then v - 1 else if v = 0x00 then 0x00 else v - 1
    encode .inx = [0xE8] ∧ encode .iny = [0xC8] ∧ encode .dex = [0xCA] ∧ encode .dey = [0x88] ∧
    exec .inx s = .next { s with x := inc s.x, p := { s.p with z := (inc s.x == 0x00), n := (inc s.x).getLsbD 7 } } ∧
    exec .iny s = .next { s with y := inc s.y, p := { s.p with z := (inc s.y == 0x00), n := (inc s.y).getLsbD 7 } } ∧
    exec .dex s = .next { s with x := dec s.x, p := { s.p with z := (dec s.x == 0x00), n := (dec s.x).getLsbD 7 } } ∧
    exec .dey s = .next { s with y := dec s.y, p := { s.p with z := (dec s.y == 0x00), n := (dec s.y).getLsbD 7 } }

/-- R190, R191, R192: AND, ORA, EOR, in every mode, combine A with the operand value bitwise and set Z and N. (Marked by
the spec as general knowledge: the operators, K8; the opcode bytes, K1.) -/
def Obligations.LogicalOpsCombineIntoA : Prop :=
  ∀ (i : Instr) (s : State),
    (i.kind = .and →
      (i.mode, i.opcodeByte) ∈ ([(.indexedIndirect, 0x21), (.zeroPage, 0x25), (.immediate, 0x29), (.absolute, 0x2D),
        (.indirectIndexed, 0x31), (.zeroPageX, 0x35), (.absoluteY, 0x39), (.absoluteX, 0x3D)] : List (Mode × Byte)) ∧
      ∃ m s1, operandOf i s = some (m, s1) ∧
      exec i s = .next
        { s1 with a := s.a &&& m, p := { s1.p with z := (s.a &&& m == 0x00), n := (s.a &&& m).getLsbD 7 } }) ∧
    (i.kind = .ora →
      (i.mode, i.opcodeByte) ∈ ([(.indexedIndirect, 0x01), (.zeroPage, 0x05), (.immediate, 0x09), (.absolute, 0x0D),
        (.indirectIndexed, 0x11), (.zeroPageX, 0x15), (.absoluteY, 0x19), (.absoluteX, 0x1D)] : List (Mode × Byte)) ∧
      ∃ m s1, operandOf i s = some (m, s1) ∧
      exec i s = .next
        { s1 with a := s.a ||| m, p := { s1.p with z := (s.a ||| m == 0x00), n := (s.a ||| m).getLsbD 7 } }) ∧
    (i.kind = .eor →
      (i.mode, i.opcodeByte) ∈ ([(.indexedIndirect, 0x41), (.zeroPage, 0x45), (.immediate, 0x49), (.absolute, 0x4D),
        (.indirectIndexed, 0x51), (.zeroPageX, 0x55), (.absoluteY, 0x59), (.absoluteX, 0x5D)] : List (Mode × Byte)) ∧
      ∃ m s1, operandOf i s = some (m, s1) ∧
      exec i s = .next
        { s1 with a := s.a ^^^ m, p := { s1.p with z := (s.a ^^^ m == 0x00), n := (s.a ^^^ m).getLsbD 7 } })

/-- R193: ADC, in every mode: 9-bit addition with carry, C = sum > 0xFF, V by the sign-bit rule, Z and N from the
truncated sum. (Marked by the spec as general knowledge: the opcode bytes, K1.) -/
def Obligations.AdcAddsWithCarry : Prop :=
  ∀ (i : Instr) (s : State), i.kind = .adc →
    (i.mode, i.opcodeByte) ∈ ([(.indexedIndirect, 0x61), (.zeroPage, 0x65), (.immediate, 0x69), (.absolute, 0x6D),
      (.indirectIndexed, 0x71), (.zeroPageX, 0x75), (.absoluteY, 0x79), (.absoluteX, 0x7D)] : List (Mode × Byte)) ∧
    ∃ m s1, operandOf i s = some (m, s1) ∧
    (let sum := s.a.toNat + m.toNat + (if s.p.c then 1 else 0)
     let r := BitVec.ofNat 8 sum
     exec i s = .next
      { s1 with
        a := r
        p := { s1.p with
          c := decide (sum > 0xFF)
          v := decide ((s.a ^^^ m) &&& 0x80 = 0 ∧ (s.a ^^^ r) &&& 0x80 ≠ 0)
          z := (r == 0x00)
          n := r.getLsbD 7 } })

/-- R195 item 2: the carry and the truncated sum recombine to the exact sum, and V holds exactly when the sum read as
two's complement lies outside -128..127 (marked [derived: from R193 and others]). -/
def Obligations.AdcOverflowIsSignedOverflow : Prop :=
  ∀ (i : Instr) (s t : State) (m : Byte) (s1 : State), i.kind = .adc → operandOf i s = some (m, s1) →
    exec i s = .next t →
    t.a.toNat + 256 * t.p.c.toNat = s.a.toNat + m.toNat + s.p.c.toNat ∧
    (t.p.v = true ↔ s.a.toInt + m.toInt + s.p.c.toNat < -128 ∨ 127 < s.a.toInt + m.toInt + s.p.c.toNat)

/-- R194: ADC, and under `full_isa` SBC, computes the same whatever D holds, and leaves D (the spec's decision D5). -/
def Obligations.DecimalFlagChangesNoArithmetic : Prop :=
  ∀ (i : Instr) (s t : State) (d : Bool), (i.kind = .adc ∨ i.kind = .sbc) → exec i s = .next t →
    exec i { s with p := { s.p with d := d } } = .next { t with p := { t.p with d := d } }

/-- R200, R201: JMP, in both modes, sets pc to the resolved address and changes nothing else after the pointer reads; NOP
changes nothing. (Marked by the spec as general knowledge: the opcode bytes, K1.) -/
def Obligations.JumpSetsPcAndNopNothing : Prop :=
  (∀ (i : Instr) (s : State), i.kind = .jmp →
    (i.mode, i.opcodeByte) ∈ ([(.absolute, 0x4C), (.absoluteIndirect, 0x6C)] : List (Mode × Byte)) ∧
    ∃ addr s1, addressOf i s = some (addr, s1) ∧
    exec i s = .next { s1 with pc := addr }) ∧
  (∀ s : State, encode .nop = [0xEA] ∧ exec .nop s = .next s)

/-! ## The 19 kinds under `full_isa`

For the statements of this part: 48_unimplemented.md says of these kinds that "Every sentence of their semantics is [from
general knowledge, not in source]". -/

/-- R212, R221, R226, R227, R242: ASL, LSR, ROL, ROR under `full_isa`. In Accumulator mode A is replaced; otherwise the
byte at the resolved address is read once and written once. C takes the bit shifted out, Z and N come from the result. -/
def Obligations.ShiftsAndRotatesUnderFullIsa : Prop :=
  ∀ (i : Instr) (s : State) (k : Kind) (shift : Byte → Bool → Byte) (out : Nat), s.cfg.fullIsa = true → i.kind = k →
    ((k = .asl ∧ out = 7 ∧ shift = fun m _ => BitVec.ofNat 8 (m.toNat * 2)) ∨
      (k = .lsr ∧ out = 0 ∧ shift = fun m _ => BitVec.ofNat 8 (m.toNat / 2)) ∨
      (k = .rol ∧ out = 7 ∧ shift = fun m c => BitVec.ofNat 8 (m.toNat * 2 + c.toNat)) ∨
      (k = .ror ∧ out = 0 ∧ shift = fun m c => BitVec.ofNat 8 (m.toNat / 2 + 128 * c.toNat))) →
    (k = .asl → (i.mode, i.opcodeByte) ∈ ([(.zeroPage, 0x06), (.accumulator, 0x0A), (.absolute, 0x0E), (.zeroPageX, 0x16),
        (.absoluteX, 0x1E)] : List (Mode × Byte))) ∧
    (k = .lsr → (i.mode, i.opcodeByte) ∈ ([(.zeroPage, 0x46), (.accumulator, 0x4A), (.absolute, 0x4E), (.zeroPageX, 0x56),
        (.absoluteX, 0x5E)] : List (Mode × Byte))) ∧
    (k = .rol → (i.mode, i.opcodeByte) ∈ ([(.zeroPage, 0x26), (.accumulator, 0x2A), (.absolute, 0x2E), (.zeroPageX, 0x36),
        (.absoluteX, 0x3E)] : List (Mode × Byte))) ∧
    (k = .ror → (i.mode, i.opcodeByte) ∈ ([(.zeroPage, 0x66), (.accumulator, 0x6A), (.absolute, 0x6E), (.zeroPageX, 0x76),
        (.absoluteX, 0x7E)] : List (Mode × Byte))) ∧
    (i.mode = .accumulator →
      exec i s = .next
        { s with
          a := shift s.a s.p.c
          p := { s.p with
            c := s.a.getLsbD out, z := (shift s.a s.p.c == 0x00), n := (shift s.a s.p.c).getLsbD 7 } }) ∧
    (i.mode ≠ .accumulator → ∃ addr s1, addressOf i s = some (addr, s1) ∧
      (let m := (busRead addr s1).1
       let s2 := (busRead addr s1).2
       let r := shift m s.p.c
       exec i s = .next
        (busWrite addr r { s2 with p := { s2.p with c := m.getLsbD out, z := (r == 0x00), n := r.getLsbD 7 } })))

/-- R218, R219: INC and DEC under `full_isa` read the byte once, write it back incremented or decremented modulo 256,
whatever `incdec_wrap`, and set Z and N. -/
def Obligations.MemoryIncDecAlwaysWraps : Prop :=
  ∀ (i : Instr) (s : State), s.cfg.fullIsa = true → i.kind = .inc ∨ i.kind = .dec →
    (i.kind = .inc →
      (i.mode, i.opcodeByte) ∈ ([(.zeroPage, 0xE6), (.absolute, 0xEE), (.zeroPageX, 0xF6),
        (.absoluteX, 0xFE)] : List (Mode × Byte))) ∧
    (i.kind = .dec →
      (i.mode, i.opcodeByte) ∈ ([(.zeroPage, 0xC6), (.absolute, 0xCE), (.zeroPageX, 0xD6),
        (.absoluteX, 0xDE)] : List (Mode × Byte))) ∧
    ∃ addr s1, addressOf i s = some (addr, s1) ∧
      (let m := (busRead addr s1).1
       let s2 := (busRead addr s1).2
       let r := if i.kind = .inc then BitVec.ofNat 8 (m.toNat + 1) else BitVec.ofNat 8 (m.toNat + 255)
       exec i s = .next (busWrite addr r { s2 with p := { s2.p with z := (r == 0x00), n := r.getLsbD 7 } }))

/-- R213: BIT under `full_isa`: Z from A & m, N and V from bits 7 and 6 of m; A is not changed. -/
def Obligations.BitTestsMemoryAgainstA : Prop :=
  ∀ (i : Instr) (s : State), s.cfg.fullIsa = true → i.kind = .bit →
    (i.mode, i.opcodeByte) ∈ ([(.zeroPage, 0x24), (.absolute, 0x2C)] : List (Mode × Byte)) ∧
    ∃ m s1, operandOf i s = some (m, s1) ∧
    exec i s = .next
      { s1 with p := { s1.p with z := (s.a &&& m == 0x00), n := m.getLsbD 7, v := m.getLsbD 6 } }

/-- R215, R216, R217, R243: CMP, CPX, CPY under `full_isa`: C is unsigned reg ≥ m, Z is reg = m, N is bit 7 of the
difference modulo 256; no register and no other flag changes. -/
def Obligations.ComparesSetCZN : Prop :=
  ∀ (i : Instr) (s : State), s.cfg.fullIsa = true → i.kind = .cmp ∨ i.kind = .cpx ∨ i.kind = .cpy →
    (i.kind = .cmp →
      (i.mode, i.opcodeByte) ∈ ([(.indexedIndirect, 0xC1), (.zeroPage, 0xC5), (.immediate, 0xC9), (.absolute, 0xCD),
        (.indirectIndexed, 0xD1), (.zeroPageX, 0xD5), (.absoluteY, 0xD9), (.absoluteX, 0xDD)] : List (Mode × Byte))) ∧
    (i.kind = .cpx →
      (i.mode, i.opcodeByte) ∈ ([(.immediate, 0xE0), (.zeroPage, 0xE4), (.absolute, 0xEC)] : List (Mode × Byte))) ∧
    (i.kind = .cpy →
      (i.mode, i.opcodeByte) ∈ ([(.immediate, 0xC0), (.zeroPage, 0xC4), (.absolute, 0xCC)] : List (Mode × Byte))) ∧
    ∃ m s1, operandOf i s = some (m, s1) ∧
      (let reg := if i.kind = .cmp then s.a else if i.kind = .cpx then s.x else s.y
       exec i s = .next
        { s1 with p := { s1.p with
            c := decide (m.toNat ≤ reg.toNat), z := decide (reg = m), n := (reg - m).getLsbD 7 } })

/-- R230: SBC under `full_isa`, in every mode: the integer difference with borrow, C = no borrow, V by the sign-bit rule,
Z and N from the truncated difference. -/
def Obligations.SbcSubtractsWithBorrow : Prop :=
  ∀ (i : Instr) (s : State), s.cfg.fullIsa = true → i.kind = .sbc →
    (i.mode, i.opcodeByte) ∈ ([(.indexedIndirect, 0xE1), (.zeroPage, 0xE5), (.immediate, 0xE9), (.absolute, 0xED),
      (.indirectIndexed, 0xF1), (.zeroPageX, 0xF5), (.absoluteY, 0xF9), (.absoluteX, 0xFD)] : List (Mode × Byte)) ∧
    ∃ m s1, operandOf i s = some (m, s1) ∧
    (let diff : Int := s.a.toNat - m.toNat - (if s.p.c then 0 else 1)
     let r := BitVec.ofInt 8 diff
     exec i s = .next
      { s1 with
        a := r
        p := { s1.p with
          c := decide (diff ≥ 0)
          v := decide ((s.a ^^^ m) &&& 0x80 ≠ 0 ∧ (s.a ^^^ r) &&& 0x80 ≠ 0)
          z := (r == 0x00)
          n := r.getLsbD 7 } })

/-- R230's closing remark: SBC equals ADC with the operand's complement, for the result and every flag: any SBC form that
reads `m` does what any ADC form that reads `m ^ 0xFF` with the same accesses does. -/
def Obligations.SbcIsAdcOfTheComplement : Prop :=
  ∀ (i j : Instr) (s s1 : State) (m : Byte), s.cfg.fullIsa = true → i.kind = .sbc → j.kind = .adc →
    operandOf i s = some (m, s1) → operandOf j s = some (m ^^^ 0xFF, s1) → exec i s = exec j s

/-- R222 to R225, R240, R241: PHA, PHP, PLA, PLP under `full_isa`: a push writes in page 1 at S and decrements S modulo
256; a pull increments S modulo 256 and reads there. PHP pushes bits 5 and 4 set; PLP ignores them. -/
def Obligations.PushesAndPullsUseThePageOneStack : Prop :=
  ∀ s : State, s.cfg.fullIsa = true →
    encode .pha = [0x48] ∧ encode .php = [0x08] ∧ encode .pla = [0x68] ∧ encode .plp = [0x28] ∧
    exec .pha s = .next { s with ram := s.ram.write (0x100 + s.sp.toNat) s.a, sp := s.sp - 1 } ∧
    exec .php s = .next { s with ram := s.ram.write (0x100 + s.sp.toNat) (s.p.pack ||| 0x30), sp := s.sp - 1 } ∧
    (let v := s.ram.read (0x100 + (s.sp.toNat + 1) % 256)
     exec .pla s = .next { s with a := v, sp := s.sp + 1, p := { s.p with z := (v == 0x00), n := v.getLsbD 7 } } ∧
     exec .plp s = .next
      { s with
        sp := s.sp + 1
        p := { n := v.getLsbD 7, v := v.getLsbD 6, r := s.p.r, b := s.p.b, d := v.getLsbD 3, i := v.getLsbD 2,
               z := v.getLsbD 1, c := v.getLsbD 0 } })

/-- R220, R229: JSR under `full_isa` pushes the address of its last byte, high byte first, and jumps; RTS pulls a word,
low byte first, and continues one past it. -/
def Obligations.JsrPushesAndRtsPulls : Prop :=
  ∀ (s : State) (w : Addr), s.cfg.fullIsa = true →
    encode (.jsrAbs w) = [0x20, loByte w, hiByte w] ∧ encode .rts = [0x60] ∧
    exec (.jsrAbs w) s = .next
      { s with
        ram := (s.ram.write (0x100 + s.sp.toNat) (hiByte (s.pc - 1))).write (0x100 + (s.sp - 1).toNat) (loByte (s.pc - 1))
        sp := s.sp - 2
        pc := w } ∧
    exec .rts s = .next
      { s with
        sp := s.sp + 2
        pc := concat (s.ram.read (0x100 + (s.sp + 2).toNat)) (s.ram.read (0x100 + (s.sp + 1).toNat)) + 1 }

/-- R229: JSR is undone by RTS: any RTS under `full_isa` that finds S and the two stack bytes as the JSR left them, whatever
else has changed since, returns to the instruction after the JSR with S as before the JSR, and changes nothing else. -/
def Obligations.RtsUndoesJsr : Prop :=
  ∀ (s t u : State) (w : Addr), s.cfg.fullIsa = true → s.ram.wf → exec (.jsrAbs w) s = .next t →
    u.cfg.fullIsa = true → u.sp = t.sp →
    u.ram.read (0x100 + s.sp.toNat) = t.ram.read (0x100 + s.sp.toNat) →
    u.ram.read (0x100 + (s.sp - 1).toNat) = t.ram.read (0x100 + (s.sp - 1).toNat) →
    exec .rts u = .next { u with pc := s.pc, sp := s.sp }

/-- R214, R228: BRK under `full_isa` pushes the return address (two past its opcode), high byte first, then pack(P) with
bits 5 and 4 set, sets I and loads pc from 0xFFFE/0xFFFF; RTI pulls P, ignoring bits 5 and 4, then pc, with no
increment. -/
def Obligations.BrkEntersAndRtiReturns : Prop :=
  ∀ s : State, s.cfg.fullIsa = true →
    encode .brk = [0x00] ∧ encode .rti = [0x40] ∧
    exec .brk s = .next
      { s with
        ram := ((s.ram.write (0x100 + s.sp.toNat) (hiByte (s.pc + 1))).write (0x100 + (s.sp - 1).toNat)
          (loByte (s.pc + 1))).write (0x100 + (s.sp - 2).toNat) (s.p.pack ||| 0x30)
        sp := s.sp - 3
        p := { s.p with i := true }
        pc := concat (s.cfg.romRead 0xFFFF) (s.cfg.romRead 0xFFFE) } ∧
    (let v := s.ram.read (0x100 + (s.sp + 1).toNat)
     exec .rti s = .next
      { s with
        sp := s.sp + 3
        p := { n := v.getLsbD 7, v := v.getLsbD 6, r := s.p.r, b := s.p.b, d := v.getLsbD 3, i := v.getLsbD 2,
               z := v.getLsbD 1, c := v.getLsbD 0 }
        pc := concat (s.ram.read (0x100 + (s.sp + 3).toNat)) (s.ram.read (0x100 + (s.sp + 2).toNat)) })

/-- R228: any RTI under `full_isa` that finds S and the three stack bytes as the BRK left them, whatever else has changed
since, returns to two past the BRK with S and the six flags of P as before the BRK; `P.R` and `P.B`, which no pull writes,
stay as the RTI finds them, and nothing else changes. -/
def Obligations.RtiUndoesBrk : Prop :=
  ∀ s t u : State, s.cfg.fullIsa = true → s.ram.wf → exec .brk s = .next t →
    u.cfg.fullIsa = true → u.sp = t.sp →
    u.ram.read (0x100 + s.sp.toNat) = t.ram.read (0x100 + s.sp.toNat) →
    u.ram.read (0x100 + (s.sp - 1).toNat) = t.ram.read (0x100 + (s.sp - 1).toNat) →
    u.ram.read (0x100 + (s.sp - 2).toNat) = t.ram.read (0x100 + (s.sp - 2).toNat) →
    exec .rti u = .next { u with pc := s.pc + 1, sp := s.sp, p := { s.p with r := u.p.r, b := u.p.b } }

/-! ## What an instruction leaves unchanged

For the statements of this part: R211, which lists what the 19 kinds add under `full_isa`, is marked [from general knowledge,
not in source]; R31's list of flag writers of the CORE is marked [derived: from the rules of 41_load_store.md to
47_jmp_nop.md]. -/

/-- R20 and R211: A is written by LDA, TXA, TYA, AND, ORA, EOR, ADC, by PLA and SBC, and by ASL, LSR, ROL, ROR in
Accumulator mode; every other form leaves it. -/
def Obligations.OnlyTheListedKindsWriteA : Prop :=
  ∀ (i : Instr) (s t : State), exec i s = .next t →
    i.kind ∉ [Kind.lda, .txa, .tya, .and, .ora, .eor, .adc, .pla, .sbc] → i.mode ≠ .accumulator → t.a = s.a

/-- R21, R22, R23, R211: X is written by LDX, TAX, TSX, INX, DEX; Y by LDY, TAY, INY, DEY; S by TXS and by the pushes and
pulls; every other instruction leaves them. -/
def Obligations.OnlyTheListedKindsWriteXYS : Prop :=
  ∀ (i : Instr) (s t : State), exec i s = .next t →
    (i.kind ∉ [Kind.ldx, .tax, .tsx, .inx, .dex] → t.x = s.x) ∧
    (i.kind ∉ [Kind.ldy, .tay, .iny, .dey] → t.y = s.y) ∧
    (i.kind ∉ [Kind.txs, .pha, .php, .pla, .plp, .jsr, .rts, .brk, .rti] → t.sp = s.sp)

/-- R31, R211: each flag is written only by the kinds the two tables list for it; `P.R` and `P.B` by none. -/
def Obligations.OnlyTheListedKindsWriteEachFlag : Prop :=
  ∀ (i : Instr) (s t : State), exec i s = .next t →
    (i.kind ∉ [Kind.lda, .ldx, .ldy, .tax, .txa, .tay, .tya, .tsx, .inx, .iny, .dex, .dey, .and, .ora, .eor, .adc,
        .asl, .lsr, .rol, .ror, .inc, .dec, .cmp, .cpx, .cpy, .sbc, .pla, .bit, .plp, .rti] →
      t.p.n = s.p.n ∧ t.p.z = s.p.z) ∧
    (i.kind ∉ [Kind.adc, .clv, .bit, .sbc, .plp, .rti] → t.p.v = s.p.v) ∧
    (i.kind ∉ [Kind.cld, .sed, .plp, .rti] → t.p.d = s.p.d) ∧
    (i.kind ∉ [Kind.cli, .sei, .plp, .rti, .brk] → t.p.i = s.p.i) ∧
    (i.kind ∉ [Kind.clc, .sec, .adc, .asl, .lsr, .rol, .ror, .cmp, .cpx, .cpy, .sbc, .plp, .rti] → t.p.c = s.p.c) ∧
    t.p.r = s.p.r ∧ t.p.b = s.p.b

/-- R38, R123: in the execute phase only branches, jumps, JSR, RTS, BRK and RTI write pc. -/
def Obligations.OnlyTransfersOfControlWritePc : Prop :=
  ∀ (i : Instr) (s t : State), exec i s = .next t →
    i.kind ∉ [Kind.bcc, .bcs, .beq, .bne, .bvc, .bvs, .bpl, .bmi, .jmp, .jsr, .rts, .brk, .rti] → t.pc = s.pc

/-- Memory frame: a form that stores nothing leaves every byte; a store or a read-modify-write changes no byte but the
RAM byte the resolved address names; PHA and PHP none but the byte at S, JSR none but the two, and BRK none but the
three stack bytes (R71, R133, R211, R240, R242). -/
def Obligations.MemoryChangesOnlyWhereStored : Prop :=
  ∀ (i : Instr) (s t : State) (other : Addr), exec i s = .next t →
    (i.kind ∉ [Kind.sta, .stx, .sty, .asl, .lsr, .rol, .ror, .inc, .dec, .pha, .php, .jsr, .brk] →
      t.peek other = s.peek other) ∧
    (i.mode = .accumulator → t.peek other = s.peek other) ∧
    (i.kind ∈ [Kind.sta, .stx, .sty, .asl, .lsr, .rol, .ror, .inc, .dec] →
      ∀ addr s1, addressOf i s = some (addr, s1) → ¬ sameRamByte addr other → t.peek other = s.peek other) ∧
    (i.kind = .pha ∨ i.kind = .php → ¬ sameRamByte (stackAddr s.sp) other → t.peek other = s.peek other) ∧
    (i.kind = .jsr → ¬ sameRamByte (stackAddr s.sp) other → ¬ sameRamByte (stackAddr (s.sp - 1)) other →
      t.peek other = s.peek other) ∧
    (i.kind = .brk → ¬ sameRamByte (stackAddr s.sp) other → ¬ sameRamByte (stackAddr (s.sp - 1)) other →
      ¬ sameRamByte (stackAddr (s.sp - 2)) other → t.peek other = s.peek other)
end

