-- ==== Sys2Proof/Laws/Memory.lean ====
section
/-! SUPPORT. The laws of sparse memory: read after write, and every write keeps the canonical form and the bound. -/

namespace Sys2Proof

namespace Memory

/-- The offsets that a write leaves or adds: each entry is an old one, or the new byte. -/
theorem mem_write {c : Host.Cell} {m : Memory} {k : Nat} {v : Byte} (h : c ∈ m.write k v) :
    c ∈ m ∨ (c = (k, v) ∧ v ≠ unlisted) := by
  induction m with
  | nil =>
    simp only [write] at h
    split at h
    · simp at h
    · simp_all
  | cons e m ih =>
    obtain ⟨j, w⟩ := e
    simp only [write] at h
    split at h
    · split at h <;> simp_all
      tauto
    · split at h
      · split at h <;> simp_all
        tauto
      · simp only [List.mem_cons] at h ⊢
        rcases h with rfl | h
        · simp
        · rcases ih h with h | h <;> tauto

/-- A read of a canonical memory below its first entry gives the unlisted byte. -/
theorem read_of_lt {m : Memory} {k : Nat} (h : ∀ c ∈ m, k < c.1) : m.read k = unlisted := by
  induction m with
  | nil => rfl
  | cons e m ih =>
    have h0 := h e (by simp)
    have : e.1 ≠ k := by omega
    simp only [read, this, if_false]
    exact ih fun c hc => h c (List.mem_cons_of_mem _ hc)

/-- A write is read back. -/
theorem read_write_same {m : Memory} (hm : m.wf) (k : Nat) (v : Byte) : (m.write k v).read k = v := by
  induction m with
  | nil =>
    simp only [write]
    split
    · simp_all [read]
    · simp [read]
  | cons e m ih =>
    obtain ⟨j, w⟩ := e
    have hlt : ∀ c ∈ m, j < c.1 := (List.pairwise_cons.1 hm.1).1
    have hwf : wf m := ⟨(List.pairwise_cons.1 hm.1).2, fun c hc => hm.2 c (List.mem_cons_of_mem _ hc)⟩
    simp only [write]
    split
    · next hk =>
      split
      · next hv =>
        rw [hv]
        apply read_of_lt
        intro c hc
        rcases List.mem_cons.1 hc with rfl | hc
        · exact hk
        · have := hlt c hc; omega
      · simp [read]
    · split
      · next hk =>
        subst hk
        split
        · next hv => rw [hv]; exact read_of_lt hlt
        · simp [read]
      · next h1 h2 =>
        have : j ≠ k := fun h => h2 h.symm
        simp only [read, this, if_false]
        exact ih hwf

/-- A write leaves every other offset alone. -/
theorem read_write_other (m : Memory) {k l : Nat} (h : l ≠ k) (v : Byte) : (m.write k v).read l = m.read l := by
  induction m with
  | nil =>
    simp only [write]
    split
    · rfl
    · simp [read, Ne.symm h]
  | cons e m ih =>
    obtain ⟨j, w⟩ := e
    simp only [write]
    split
    · split
      · rfl
      · simp [read, Ne.symm h]
    · split
      · next hk =>
        subst hk
        split <;> simp [read, Ne.symm h]
      · simp only [read]
        split
        · rfl
        · exact ih

/-- A write keeps the canonical form. -/
theorem wf_write {m : Memory} (hm : m.wf) (k : Nat) (v : Byte) : (m.write k v).wf := by
  refine ⟨?_, fun c hc => ?_⟩
  · induction m with
    | nil =>
      simp only [write]
      split <;> simp
    | cons e m ih =>
      obtain ⟨j, w⟩ := e
      have hlt : ∀ c ∈ m, j < c.1 := (List.pairwise_cons.1 hm.1).1
      have hpw := (List.pairwise_cons.1 hm.1).2
      have hwf : wf m := ⟨hpw, fun c hc => hm.2 c (List.mem_cons_of_mem _ hc)⟩
      simp only [write]
      split
      · next hk =>
        split
        · exact hm.1
        · refine List.pairwise_cons.2 ⟨fun c hc => ?_, hm.1⟩
          rcases List.mem_cons.1 hc with rfl | hc
          · exact hk
          · exact Nat.lt_trans hk (hlt c hc)
      · split
        · next hk =>
          subst hk
          split
          · exact hpw
          · exact List.pairwise_cons.2 ⟨hlt, hpw⟩
        · next h1 h2 =>
          refine List.pairwise_cons.2 ⟨fun c hc => ?_, ih hwf⟩
          rcases mem_write hc with hc | ⟨rfl, -⟩
          · exact hlt c hc
          · show j < k
            omega
  · rcases mem_write hc with hc | ⟨rfl, hv⟩
    · exact hm.2 c hc
    · exact hv

/-- A write below the bound keeps the bound. -/
theorem below_write {m : Memory} {n k : Nat} (hm : m.below n) (hk : k < n) (v : Byte) : (m.write k v).below n := by
  intro c hc
  rcases mem_write hc with hc | ⟨rfl, -⟩
  · exact hm c hc
  · exact hk

/-- Two canonical memories that read alike are the same data. -/
theorem ext_of_read {m m' : Memory} (hm : m.wf) (hm' : m'.wf) (h : ∀ k, m.read k = m'.read k) : m = m' := by
  induction m generalizing m' with
  | nil =>
    cases m' with
    | nil => rfl
    | cons e m' =>
      have := h e.1
      simp only [read, if_true] at this
      exact absurd this.symm (hm'.2 e (by simp))
  | cons e m ih =>
    have hlt := (List.pairwise_cons.1 hm.1).1
    have hwf : wf m := ⟨(List.pairwise_cons.1 hm.1).2, fun c hc => hm.2 c (List.mem_cons_of_mem _ hc)⟩
    cases m' with
    | nil =>
      have := h e.1
      simp only [read, if_true] at this
      exact absurd this (hm.2 e (by simp))
    | cons e' m' =>
      have hlt' := (List.pairwise_cons.1 hm'.1).1
      have hwf' : wf m' := ⟨(List.pairwise_cons.1 hm'.1).2, fun c hc => hm'.2 c (List.mem_cons_of_mem _ hc)⟩
      have hkey : e.1 = e'.1 := by
        rcases Nat.lt_trichotomy e.1 e'.1 with hl | hl | hl
        · have h1 := h e.1
          have h2 : read (e' :: m') e.1 = unlisted := read_of_lt fun c hc => by
            rcases List.mem_cons.1 hc with rfl | hc
            · exact hl
            · exact Nat.lt_trans hl (hlt' c hc)
          rw [h2] at h1
          simp only [read, if_true] at h1
          exact absurd h1 (hm.2 e (by simp))
        · exact hl
        · have h1 := h e'.1
          have h2 : read (e :: m) e'.1 = unlisted := read_of_lt fun c hc => by
            rcases List.mem_cons.1 hc with rfl | hc
            · exact hl
            · exact Nat.lt_trans hl (hlt c hc)
          rw [h2] at h1
          simp only [read, if_true] at h1
          exact absurd h1.symm (hm'.2 e' (by simp))
      have hval : e.2 = e'.2 := by
        have h1 := h e.1
        simp only [read, if_true, hkey] at h1
        exact h1
      have hrest : m = m' := by
        apply ih hwf hwf'
        intro k
        by_cases hk : e.1 = k
        · subst hk
          rw [read_of_lt hlt, read_of_lt (by rw [hkey]; exact hlt')]
        · have h1 := h k
          have hk' : e'.1 ≠ k := by rw [← hkey]; exact hk
          simp only [read, hk, hk', if_false] at h1
          exact h1
      rw [hrest, Prod.ext hkey hval]

end Memory

end Sys2Proof
end

