-- ==== Sys2Proof/Laws/State.lean ====
section
/-! SUPPORT. One lemma per field per update of State and of the status register, each true by rfl, so that no later
proof unfolds a record update. -/

namespace Sys2Proof.Machine

namespace State

@[simp] theorem setA_a (v : Byte) (s : State) : (s.setA v).a = v := rfl
@[simp] theorem setA_x (v : Byte) (s : State) : (s.setA v).x = s.x := rfl
@[simp] theorem setA_y (v : Byte) (s : State) : (s.setA v).y = s.y := rfl
@[simp] theorem setA_sp (v : Byte) (s : State) : (s.setA v).sp = s.sp := rfl
@[simp] theorem setA_pc (v : Byte) (s : State) : (s.setA v).pc = s.pc := rfl
@[simp] theorem setA_p (v : Byte) (s : State) : (s.setA v).p = s.p := rfl
@[simp] theorem setA_status (v : Byte) (s : State) : (s.setA v).status = s.status := rfl
@[simp] theorem setA_ram (v : Byte) (s : State) : (s.setA v).ram = s.ram := rfl
@[simp] theorem setA_history (v : Byte) (s : State) : (s.setA v).history = s.history := rfl
@[simp] theorem setA_cfg (v : Byte) (s : State) : (s.setA v).cfg = s.cfg := rfl
@[simp] theorem setX_a (v : Byte) (s : State) : (s.setX v).a = s.a := rfl
@[simp] theorem setX_x (v : Byte) (s : State) : (s.setX v).x = v := rfl
@[simp] theorem setX_y (v : Byte) (s : State) : (s.setX v).y = s.y := rfl
@[simp] theorem setX_sp (v : Byte) (s : State) : (s.setX v).sp = s.sp := rfl
@[simp] theorem setX_pc (v : Byte) (s : State) : (s.setX v).pc = s.pc := rfl
@[simp] theorem setX_p (v : Byte) (s : State) : (s.setX v).p = s.p := rfl
@[simp] theorem setX_status (v : Byte) (s : State) : (s.setX v).status = s.status := rfl
@[simp] theorem setX_ram (v : Byte) (s : State) : (s.setX v).ram = s.ram := rfl
@[simp] theorem setX_history (v : Byte) (s : State) : (s.setX v).history = s.history := rfl
@[simp] theorem setX_cfg (v : Byte) (s : State) : (s.setX v).cfg = s.cfg := rfl
@[simp] theorem setY_a (v : Byte) (s : State) : (s.setY v).a = s.a := rfl
@[simp] theorem setY_x (v : Byte) (s : State) : (s.setY v).x = s.x := rfl
@[simp] theorem setY_y (v : Byte) (s : State) : (s.setY v).y = v := rfl
@[simp] theorem setY_sp (v : Byte) (s : State) : (s.setY v).sp = s.sp := rfl
@[simp] theorem setY_pc (v : Byte) (s : State) : (s.setY v).pc = s.pc := rfl
@[simp] theorem setY_p (v : Byte) (s : State) : (s.setY v).p = s.p := rfl
@[simp] theorem setY_status (v : Byte) (s : State) : (s.setY v).status = s.status := rfl
@[simp] theorem setY_ram (v : Byte) (s : State) : (s.setY v).ram = s.ram := rfl
@[simp] theorem setY_history (v : Byte) (s : State) : (s.setY v).history = s.history := rfl
@[simp] theorem setY_cfg (v : Byte) (s : State) : (s.setY v).cfg = s.cfg := rfl
@[simp] theorem setSp_a (v : Byte) (s : State) : (s.setSp v).a = s.a := rfl
@[simp] theorem setSp_x (v : Byte) (s : State) : (s.setSp v).x = s.x := rfl
@[simp] theorem setSp_y (v : Byte) (s : State) : (s.setSp v).y = s.y := rfl
@[simp] theorem setSp_sp (v : Byte) (s : State) : (s.setSp v).sp = v := rfl
@[simp] theorem setSp_pc (v : Byte) (s : State) : (s.setSp v).pc = s.pc := rfl
@[simp] theorem setSp_p (v : Byte) (s : State) : (s.setSp v).p = s.p := rfl
@[simp] theorem setSp_status (v : Byte) (s : State) : (s.setSp v).status = s.status := rfl
@[simp] theorem setSp_ram (v : Byte) (s : State) : (s.setSp v).ram = s.ram := rfl
@[simp] theorem setSp_history (v : Byte) (s : State) : (s.setSp v).history = s.history := rfl
@[simp] theorem setSp_cfg (v : Byte) (s : State) : (s.setSp v).cfg = s.cfg := rfl
@[simp] theorem setPc_a (w : Addr) (s : State) : (s.setPc w).a = s.a := rfl
@[simp] theorem setPc_x (w : Addr) (s : State) : (s.setPc w).x = s.x := rfl
@[simp] theorem setPc_y (w : Addr) (s : State) : (s.setPc w).y = s.y := rfl
@[simp] theorem setPc_sp (w : Addr) (s : State) : (s.setPc w).sp = s.sp := rfl
@[simp] theorem setPc_pc (w : Addr) (s : State) : (s.setPc w).pc = w := rfl
@[simp] theorem setPc_p (w : Addr) (s : State) : (s.setPc w).p = s.p := rfl
@[simp] theorem setPc_status (w : Addr) (s : State) : (s.setPc w).status = s.status := rfl
@[simp] theorem setPc_ram (w : Addr) (s : State) : (s.setPc w).ram = s.ram := rfl
@[simp] theorem setPc_history (w : Addr) (s : State) : (s.setPc w).history = s.history := rfl
@[simp] theorem setPc_cfg (w : Addr) (s : State) : (s.setPc w).cfg = s.cfg := rfl
@[simp] theorem setP_a (p : StatusRegister) (s : State) : (s.setP p).a = s.a := rfl
@[simp] theorem setP_x (p : StatusRegister) (s : State) : (s.setP p).x = s.x := rfl
@[simp] theorem setP_y (p : StatusRegister) (s : State) : (s.setP p).y = s.y := rfl
@[simp] theorem setP_sp (p : StatusRegister) (s : State) : (s.setP p).sp = s.sp := rfl
@[simp] theorem setP_pc (p : StatusRegister) (s : State) : (s.setP p).pc = s.pc := rfl
@[simp] theorem setP_p (p : StatusRegister) (s : State) : (s.setP p).p = p := rfl
@[simp] theorem setP_status (p : StatusRegister) (s : State) : (s.setP p).status = s.status := rfl
@[simp] theorem setP_ram (p : StatusRegister) (s : State) : (s.setP p).ram = s.ram := rfl
@[simp] theorem setP_history (p : StatusRegister) (s : State) : (s.setP p).history = s.history := rfl
@[simp] theorem setP_cfg (p : StatusRegister) (s : State) : (s.setP p).cfg = s.cfg := rfl
@[simp] theorem setStatus_a (r : RunStatus) (s : State) : (s.setStatus r).a = s.a := rfl
@[simp] theorem setStatus_x (r : RunStatus) (s : State) : (s.setStatus r).x = s.x := rfl
@[simp] theorem setStatus_y (r : RunStatus) (s : State) : (s.setStatus r).y = s.y := rfl
@[simp] theorem setStatus_sp (r : RunStatus) (s : State) : (s.setStatus r).sp = s.sp := rfl
@[simp] theorem setStatus_pc (r : RunStatus) (s : State) : (s.setStatus r).pc = s.pc := rfl
@[simp] theorem setStatus_p (r : RunStatus) (s : State) : (s.setStatus r).p = s.p := rfl
@[simp] theorem setStatus_status (r : RunStatus) (s : State) : (s.setStatus r).status = r := rfl
@[simp] theorem setStatus_ram (r : RunStatus) (s : State) : (s.setStatus r).ram = s.ram := rfl
@[simp] theorem setStatus_history (r : RunStatus) (s : State) : (s.setStatus r).history = s.history := rfl
@[simp] theorem setStatus_cfg (r : RunStatus) (s : State) : (s.setStatus r).cfg = s.cfg := rfl
@[simp] theorem setRam_a (m : Memory) (s : State) : (s.setRam m).a = s.a := rfl
@[simp] theorem setRam_x (m : Memory) (s : State) : (s.setRam m).x = s.x := rfl
@[simp] theorem setRam_y (m : Memory) (s : State) : (s.setRam m).y = s.y := rfl
@[simp] theorem setRam_sp (m : Memory) (s : State) : (s.setRam m).sp = s.sp := rfl
@[simp] theorem setRam_pc (m : Memory) (s : State) : (s.setRam m).pc = s.pc := rfl
@[simp] theorem setRam_p (m : Memory) (s : State) : (s.setRam m).p = s.p := rfl
@[simp] theorem setRam_status (m : Memory) (s : State) : (s.setRam m).status = s.status := rfl
@[simp] theorem setRam_ram (m : Memory) (s : State) : (s.setRam m).ram = m := rfl
@[simp] theorem setRam_history (m : Memory) (s : State) : (s.setRam m).history = s.history := rfl
@[simp] theorem setRam_cfg (m : Memory) (s : State) : (s.setRam m).cfg = s.cfg := rfl
@[simp] theorem logEvent_a (e : DevEvent) (s : State) : (s.logEvent e).a = s.a := rfl
@[simp] theorem logEvent_x (e : DevEvent) (s : State) : (s.logEvent e).x = s.x := rfl
@[simp] theorem logEvent_y (e : DevEvent) (s : State) : (s.logEvent e).y = s.y := rfl
@[simp] theorem logEvent_sp (e : DevEvent) (s : State) : (s.logEvent e).sp = s.sp := rfl
@[simp] theorem logEvent_pc (e : DevEvent) (s : State) : (s.logEvent e).pc = s.pc := rfl
@[simp] theorem logEvent_p (e : DevEvent) (s : State) : (s.logEvent e).p = s.p := rfl
@[simp] theorem logEvent_status (e : DevEvent) (s : State) : (s.logEvent e).status = s.status := rfl
@[simp] theorem logEvent_ram (e : DevEvent) (s : State) : (s.logEvent e).ram = s.ram := rfl
@[simp] theorem logEvent_history (e : DevEvent) (s : State) : (s.logEvent e).history = s.history ++ [e] := rfl
@[simp] theorem logEvent_cfg (e : DevEvent) (s : State) : (s.logEvent e).cfg = s.cfg := rfl
@[simp] theorem setZN_a (v : Byte) (s : State) : (s.setZN v).a = s.a := rfl
@[simp] theorem setZN_x (v : Byte) (s : State) : (s.setZN v).x = s.x := rfl
@[simp] theorem setZN_y (v : Byte) (s : State) : (s.setZN v).y = s.y := rfl
@[simp] theorem setZN_sp (v : Byte) (s : State) : (s.setZN v).sp = s.sp := rfl
@[simp] theorem setZN_pc (v : Byte) (s : State) : (s.setZN v).pc = s.pc := rfl
@[simp] theorem setZN_p (v : Byte) (s : State) : (s.setZN v).p = s.p.setZN v := rfl
@[simp] theorem setZN_status (v : Byte) (s : State) : (s.setZN v).status = s.status := rfl
@[simp] theorem setZN_ram (v : Byte) (s : State) : (s.setZN v).ram = s.ram := rfl
@[simp] theorem setZN_history (v : Byte) (s : State) : (s.setZN v).history = s.history := rfl
@[simp] theorem setZN_cfg (v : Byte) (s : State) : (s.setZN v).cfg = s.cfg := rfl

end State

namespace StatusRegister

@[simp] theorem setN_n (w : Bool) (p : StatusRegister) : (p.setN w).n = w := rfl
@[simp] theorem setN_v (w : Bool) (p : StatusRegister) : (p.setN w).v = p.v := rfl
@[simp] theorem setN_r (w : Bool) (p : StatusRegister) : (p.setN w).r = p.r := rfl
@[simp] theorem setN_b (w : Bool) (p : StatusRegister) : (p.setN w).b = p.b := rfl
@[simp] theorem setN_d (w : Bool) (p : StatusRegister) : (p.setN w).d = p.d := rfl
@[simp] theorem setN_i (w : Bool) (p : StatusRegister) : (p.setN w).i = p.i := rfl
@[simp] theorem setN_z (w : Bool) (p : StatusRegister) : (p.setN w).z = p.z := rfl
@[simp] theorem setN_c (w : Bool) (p : StatusRegister) : (p.setN w).c = p.c := rfl
@[simp] theorem setV_n (w : Bool) (p : StatusRegister) : (p.setV w).n = p.n := rfl
@[simp] theorem setV_v (w : Bool) (p : StatusRegister) : (p.setV w).v = w := rfl
@[simp] theorem setV_r (w : Bool) (p : StatusRegister) : (p.setV w).r = p.r := rfl
@[simp] theorem setV_b (w : Bool) (p : StatusRegister) : (p.setV w).b = p.b := rfl
@[simp] theorem setV_d (w : Bool) (p : StatusRegister) : (p.setV w).d = p.d := rfl
@[simp] theorem setV_i (w : Bool) (p : StatusRegister) : (p.setV w).i = p.i := rfl
@[simp] theorem setV_z (w : Bool) (p : StatusRegister) : (p.setV w).z = p.z := rfl
@[simp] theorem setV_c (w : Bool) (p : StatusRegister) : (p.setV w).c = p.c := rfl
@[simp] theorem setD_n (w : Bool) (p : StatusRegister) : (p.setD w).n = p.n := rfl
@[simp] theorem setD_v (w : Bool) (p : StatusRegister) : (p.setD w).v = p.v := rfl
@[simp] theorem setD_r (w : Bool) (p : StatusRegister) : (p.setD w).r = p.r := rfl
@[simp] theorem setD_b (w : Bool) (p : StatusRegister) : (p.setD w).b = p.b := rfl
@[simp] theorem setD_d (w : Bool) (p : StatusRegister) : (p.setD w).d = w := rfl
@[simp] theorem setD_i (w : Bool) (p : StatusRegister) : (p.setD w).i = p.i := rfl
@[simp] theorem setD_z (w : Bool) (p : StatusRegister) : (p.setD w).z = p.z := rfl
@[simp] theorem setD_c (w : Bool) (p : StatusRegister) : (p.setD w).c = p.c := rfl
@[simp] theorem setI_n (w : Bool) (p : StatusRegister) : (p.setI w).n = p.n := rfl
@[simp] theorem setI_v (w : Bool) (p : StatusRegister) : (p.setI w).v = p.v := rfl
@[simp] theorem setI_r (w : Bool) (p : StatusRegister) : (p.setI w).r = p.r := rfl
@[simp] theorem setI_b (w : Bool) (p : StatusRegister) : (p.setI w).b = p.b := rfl
@[simp] theorem setI_d (w : Bool) (p : StatusRegister) : (p.setI w).d = p.d := rfl
@[simp] theorem setI_i (w : Bool) (p : StatusRegister) : (p.setI w).i = w := rfl
@[simp] theorem setI_z (w : Bool) (p : StatusRegister) : (p.setI w).z = p.z := rfl
@[simp] theorem setI_c (w : Bool) (p : StatusRegister) : (p.setI w).c = p.c := rfl
@[simp] theorem setZ_n (w : Bool) (p : StatusRegister) : (p.setZ w).n = p.n := rfl
@[simp] theorem setZ_v (w : Bool) (p : StatusRegister) : (p.setZ w).v = p.v := rfl
@[simp] theorem setZ_r (w : Bool) (p : StatusRegister) : (p.setZ w).r = p.r := rfl
@[simp] theorem setZ_b (w : Bool) (p : StatusRegister) : (p.setZ w).b = p.b := rfl
@[simp] theorem setZ_d (w : Bool) (p : StatusRegister) : (p.setZ w).d = p.d := rfl
@[simp] theorem setZ_i (w : Bool) (p : StatusRegister) : (p.setZ w).i = p.i := rfl
@[simp] theorem setZ_z (w : Bool) (p : StatusRegister) : (p.setZ w).z = w := rfl
@[simp] theorem setZ_c (w : Bool) (p : StatusRegister) : (p.setZ w).c = p.c := rfl
@[simp] theorem setC_n (w : Bool) (p : StatusRegister) : (p.setC w).n = p.n := rfl
@[simp] theorem setC_v (w : Bool) (p : StatusRegister) : (p.setC w).v = p.v := rfl
@[simp] theorem setC_r (w : Bool) (p : StatusRegister) : (p.setC w).r = p.r := rfl
@[simp] theorem setC_b (w : Bool) (p : StatusRegister) : (p.setC w).b = p.b := rfl
@[simp] theorem setC_d (w : Bool) (p : StatusRegister) : (p.setC w).d = p.d := rfl
@[simp] theorem setC_i (w : Bool) (p : StatusRegister) : (p.setC w).i = p.i := rfl
@[simp] theorem setC_z (w : Bool) (p : StatusRegister) : (p.setC w).z = p.z := rfl
@[simp] theorem setC_c (w : Bool) (p : StatusRegister) : (p.setC w).c = w := rfl
@[simp] theorem setZN_n (v : Byte) (p : StatusRegister) : (p.setZN v).n = v.getLsbD 7 := rfl
@[simp] theorem setZN_v (v : Byte) (p : StatusRegister) : (p.setZN v).v = p.v := rfl
@[simp] theorem setZN_r (v : Byte) (p : StatusRegister) : (p.setZN v).r = p.r := rfl
@[simp] theorem setZN_b (v : Byte) (p : StatusRegister) : (p.setZN v).b = p.b := rfl
@[simp] theorem setZN_d (v : Byte) (p : StatusRegister) : (p.setZN v).d = p.d := rfl
@[simp] theorem setZN_i (v : Byte) (p : StatusRegister) : (p.setZN v).i = p.i := rfl
@[simp] theorem setZN_z (v : Byte) (p : StatusRegister) : (p.setZN v).z = (v == 0x00) := rfl
@[simp] theorem setZN_c (v : Byte) (p : StatusRegister) : (p.setZN v).c = p.c := rfl
@[simp] theorem restore_n (v : Byte) (p : StatusRegister) : (p.restore v).n = v.getLsbD 7 := rfl
@[simp] theorem restore_v (v : Byte) (p : StatusRegister) : (p.restore v).v = v.getLsbD 6 := rfl
@[simp] theorem restore_r (v : Byte) (p : StatusRegister) : (p.restore v).r = p.r := rfl
@[simp] theorem restore_b (v : Byte) (p : StatusRegister) : (p.restore v).b = p.b := rfl
@[simp] theorem restore_d (v : Byte) (p : StatusRegister) : (p.restore v).d = v.getLsbD 3 := rfl
@[simp] theorem restore_i (v : Byte) (p : StatusRegister) : (p.restore v).i = v.getLsbD 2 := rfl
@[simp] theorem restore_z (v : Byte) (p : StatusRegister) : (p.restore v).z = v.getLsbD 1 := rfl
@[simp] theorem restore_c (v : Byte) (p : StatusRegister) : (p.restore v).c = v.getLsbD 0 := rfl
@[simp] theorem compare_n (p : StatusRegister) (reg m : Byte) : (p.compare reg m).n = (reg - m).getLsbD 7 := rfl
@[simp] theorem compare_v (p : StatusRegister) (reg m : Byte) : (p.compare reg m).v = p.v := rfl
@[simp] theorem compare_r (p : StatusRegister) (reg m : Byte) : (p.compare reg m).r = p.r := rfl
@[simp] theorem compare_b (p : StatusRegister) (reg m : Byte) : (p.compare reg m).b = p.b := rfl
@[simp] theorem compare_d (p : StatusRegister) (reg m : Byte) : (p.compare reg m).d = p.d := rfl
@[simp] theorem compare_i (p : StatusRegister) (reg m : Byte) : (p.compare reg m).i = p.i := rfl
@[simp] theorem compare_z (p : StatusRegister) (reg m : Byte) : (p.compare reg m).z = (reg == m) := rfl
@[simp] theorem compare_c (p : StatusRegister) (reg m : Byte) : (p.compare reg m).c = decide (reg.toNat ≥ m.toNat) := rfl
@[simp] theorem addWithCarry_n (p : StatusRegister) (a m : Byte) : (p.addWithCarry a m).2.n = p.n := rfl
@[simp] theorem addWithCarry_r (p : StatusRegister) (a m : Byte) : (p.addWithCarry a m).2.r = p.r := rfl
@[simp] theorem addWithCarry_b (p : StatusRegister) (a m : Byte) : (p.addWithCarry a m).2.b = p.b := rfl
@[simp] theorem addWithCarry_d (p : StatusRegister) (a m : Byte) : (p.addWithCarry a m).2.d = p.d := rfl
@[simp] theorem addWithCarry_i (p : StatusRegister) (a m : Byte) : (p.addWithCarry a m).2.i = p.i := rfl
@[simp] theorem addWithCarry_z (p : StatusRegister) (a m : Byte) : (p.addWithCarry a m).2.z = p.z := rfl
@[simp] theorem subWithBorrow_n (p : StatusRegister) (a m : Byte) : (p.subWithBorrow a m).2.n = p.n := rfl
@[simp] theorem subWithBorrow_r (p : StatusRegister) (a m : Byte) : (p.subWithBorrow a m).2.r = p.r := rfl
@[simp] theorem subWithBorrow_b (p : StatusRegister) (a m : Byte) : (p.subWithBorrow a m).2.b = p.b := rfl
@[simp] theorem subWithBorrow_d (p : StatusRegister) (a m : Byte) : (p.subWithBorrow a m).2.d = p.d := rfl
@[simp] theorem subWithBorrow_i (p : StatusRegister) (a m : Byte) : (p.subWithBorrow a m).2.i = p.i := rfl
@[simp] theorem subWithBorrow_z (p : StatusRegister) (a m : Byte) : (p.subWithBorrow a m).2.z = p.z := rfl
@[simp] theorem setR_r (w : Bool) (p : StatusRegister) : (p.setR w).r = (p.r || w) := rfl
@[simp] theorem reset_r (p : StatusRegister) : p.reset.r = true := Bool.or_true _
@[simp] theorem reset_b (p : StatusRegister) : p.reset.b = false := rfl

/-- A raw write of false to the reserved flag is ignored (R29). -/
theorem setR_false (p : StatusRegister) : p.setR false = p := by simp [setR]

/-- After reset every flag but the reserved one is false (R281). -/
theorem reset_eq (p : StatusRegister) :
    p.reset = { n := false, v := false, r := true, b := false, d := false, i := false, z := false, c := false } := by
  simp [reset, setR]

end StatusRegister

end Sys2Proof.Machine
end

