-- ==== Sys2Proof/Laws/Bus.lean ====
section
/-! SUPPORT. One lemma per shared operation, saying once everything it can do: the bus read and write, the fetch, the stack,
the resolver and the operand value. A read changes nothing but the device history, so each reading operation is described
by the device events it adds. -/

namespace Sys2Proof.Machine

/-- The state with device events added after the earlier ones. -/
def State.logEvents (es : List DevEvent) (s : State) : State := { s with history := s.history ++ es }

namespace State

@[simp] theorem logEvents_a (es : List DevEvent) (s : State) : (s.logEvents es).a = s.a := rfl
@[simp] theorem logEvents_x (es : List DevEvent) (s : State) : (s.logEvents es).x = s.x := rfl
@[simp] theorem logEvents_y (es : List DevEvent) (s : State) : (s.logEvents es).y = s.y := rfl
@[simp] theorem logEvents_sp (es : List DevEvent) (s : State) : (s.logEvents es).sp = s.sp := rfl
@[simp] theorem logEvents_pc (es : List DevEvent) (s : State) : (s.logEvents es).pc = s.pc := rfl
@[simp] theorem logEvents_p (es : List DevEvent) (s : State) : (s.logEvents es).p = s.p := rfl
@[simp] theorem logEvents_status (es : List DevEvent) (s : State) : (s.logEvents es).status = s.status := rfl
@[simp] theorem logEvents_ram (es : List DevEvent) (s : State) : (s.logEvents es).ram = s.ram := rfl
@[simp] theorem logEvents_history (es : List DevEvent) (s : State) :
    (s.logEvents es).history = s.history ++ es := rfl
@[simp] theorem logEvents_cfg (es : List DevEvent) (s : State) : (s.logEvents es).cfg = s.cfg := rfl

@[simp] theorem logEvents_nil (s : State) : s.logEvents [] = s := by simp [logEvents]

theorem logEvents_append (es fs : List DevEvent) (s : State) :
    (s.logEvents es).logEvents fs = s.logEvents (es ++ fs) := by simp [logEvents]

end State

/-- Device reads only. -/
def onlyReads (es : List DevEvent) : Prop := ∀ e ∈ es, ∃ dev off, e = .read dev off

theorem onlyReads_nil : onlyReads [] := by simp [onlyReads]

theorem onlyReads.append {es fs : List DevEvent} (he : onlyReads es) (hf : onlyReads fs) : onlyReads (es ++ fs) := by
  intro e h
  rcases List.mem_append.1 h with h | h
  · exact he e h
  · exact hf e h

/-! ## Routing -/

theorem route_ram {prgLen : Nat} {addr : Addr} (h : addr.toNat ≤ 0x1FFF) :
    route prgLen addr = .ram (addr.toNat % 0x800) := by
  have hand : (addr &&& 0x07FF).toNat = addr.toNat % 0x800 := by
    rw [BitVec.toNat_and]
    exact Nat.and_two_pow_sub_one_eq_mod addr.toNat 11
  simp only [route, BitVec.le_def]
  split
  · next h1 =>
    have h1 : addr.toNat ≤ 0x07FF := h1
    rw [Nat.mod_eq_of_lt (by omega)]
  · rw [if_pos (by exact h), hand]

theorem route_ppu {prgLen : Nat} {addr : Addr} (h : 0x2000 ≤ addr.toNat) (h' : addr.toNat ≤ 0x3FFF) :
    route prgLen addr = .device .ppu (BitVec.ofNat 16 (addr.toNat % 8)) := by
  have hand : addr &&& 0x0007 = BitVec.ofNat 16 (addr.toNat % 8) := by
    apply BitVec.eq_of_toNat_eq
    rw [BitVec.toNat_and, BitVec.toNat_ofNat]
    have : addr.toNat &&& (0x0007 : Addr).toNat = addr.toNat % 8 := Nat.and_two_pow_sub_one_eq_mod addr.toNat 3
    omega
  simp only [route, BitVec.le_def]
  rw [if_neg (by simp; omega), if_neg (by simp; omega), if_pos (by simpa using h'), hand]

theorem route_apu {prgLen : Nat} {addr : Addr} (h : 0x4000 ≤ addr.toNat) (h' : addr.toNat ≤ 0x401F)
    (hd : addr ≠ 0x4014) (hp : addr ≠ 0x4016) : route prgLen addr = .device .apu (addr - 0x4000) := by
  simp only [route, BitVec.le_def]
  rw [if_neg (by simp; omega), if_neg (by simp; omega), if_neg (by simp; omega), if_neg hp, if_neg hd,
    if_pos (by simpa using h')]

theorem route_unmapped {prgLen : Nat} {addr : Addr} (h : 0x4020 ≤ addr.toNat) (h' : addr.toNat ≤ 0x7FFF) :
    route prgLen addr = .unmapped := by
  have hp : addr ≠ 0x4016 := by rintro rfl; simp at h
  have hd : addr ≠ 0x4014 := by rintro rfl; simp at h
  simp only [route, BitVec.le_def, BitVec.lt_def]
  rw [if_neg (by simp; omega), if_neg (by simp; omega), if_neg (by simp; omega), if_neg hp, if_neg hd,
    if_neg (by simp; omega), if_pos (by simp; omega)]

theorem route_rom {prgLen : Nat} {addr : Addr} (h : 0x8000 ≤ addr.toNat) :
    route prgLen addr = .rom (romOffset prgLen addr) := by
  have hp : addr ≠ 0x4016 := by rintro rfl; simp at h
  have hd : addr ≠ 0x4014 := by rintro rfl; simp at h
  simp only [route, BitVec.le_def, BitVec.lt_def]
  rw [if_neg (by simp; omega), if_neg (by simp; omega), if_neg (by simp; omega), if_neg hp, if_neg hd,
    if_neg (by simp; omega), if_neg (by simp; omega)]

/-- The offset of a ROM address in integer arithmetic (R59). -/
theorem romOffset_eq {prgLen : Nat} {addr : Addr} (h : 0x8000 ≤ addr.toNat) :
    romOffset prgLen addr =
      if prgLen ≤ 0x4000 then (addr.toNat - 0x8000) % 0x4000 else addr.toNat - 0x8000 := by
  have hsub : (addr - 0x8000).toNat = addr.toNat - 0x8000 := by
    rw [BitVec.toNat_sub]
    have := addr.isLt
    simp
    omega
  have hand : ((addr - 0x8000) &&& 0x3FFF).toNat = (addr.toNat - 0x8000) % 0x4000 := by
    rw [BitVec.toNat_and, hsub]
    exact Nat.and_two_pow_sub_one_eq_mod _ 14
  simp only [romOffset, hand, hsub]

/-- Only the RAM window is routed to RAM, and to an offset of the array. -/
theorem route_ram_inv {prgLen off : Nat} {addr : Addr} (h : route prgLen addr = .ram off) :
    addr.toNat ≤ 0x1FFF ∧ off = addr.toNat % 0x800 := by
  by_cases hle : addr.toNat ≤ 0x1FFF
  · rw [route_ram hle] at h
    exact ⟨hle, (Target.ram.inj h).symm⟩
  · exfalso
    have h1 : ¬ addr ≤ 0x07FF := by simp [BitVec.le_def]; omega
    have h2 : ¬ addr ≤ 0x1FFF := by simp [BitVec.le_def]; omega
    simp only [route, h1, h2, if_false] at h
    repeat' split at h
    all_goals simp at h

/-! ## The bus -/

theorem busRead_ram {addr : Addr} (h : addr.toNat ≤ 0x1FFF) (s : State) :
    busRead addr s = (s.ram.read (addr.toNat % 0x800), s) := by simp only [busRead, route_ram h]

theorem busRead_rom {addr : Addr} (h : 0x8000 ≤ addr.toNat) (s : State) :
    busRead addr s = (s.cfg.romRead addr, s) := by simp only [busRead, route_rom h, Config.romRead]

theorem busWrite_ram {addr : Addr} (h : addr.toNat ≤ 0x1FFF) (v : Byte) (s : State) :
    busWrite addr v s = s.setRam (s.ram.write (addr.toNat % 0x800) v) := by simp only [busWrite, route_ram h]

/-- A bus read adds at most one device read and changes nothing else. -/
theorem busRead_spec (addr : Addr) (s : State) :
    ∃ es, (busRead addr s).2 = s.logEvents es ∧ es.length ≤ 1 ∧ onlyReads es := by
  simp only [busRead]
  split
  · exact ⟨[], by simp, by simp, onlyReads_nil⟩
  · next dev off _ => exact ⟨[.read dev off], rfl, by simp, by simp [onlyReads]⟩
  · exact ⟨[], by simp, by simp, onlyReads_nil⟩
  · exact ⟨[], by simp, by simp, onlyReads_nil⟩

/-- A bus write writes one RAM byte, or records one device write, or does nothing. -/
theorem busWrite_cases (addr : Addr) (v : Byte) (s : State) :
    (addr.toNat ≤ 0x1FFF ∧ busWrite addr v s = s.setRam (s.ram.write (addr.toNat % 0x800) v)) ∨
    (∃ dev off, route s.cfg.prgLen addr = .device dev off ∧ busWrite addr v s = s.logEvent (.write dev off v)) ∨
    busWrite addr v s = s := by
  simp only [busWrite]
  split
  · next off h =>
    obtain ⟨hle, rfl⟩ := route_ram_inv h
    exact .inl ⟨hle, rfl⟩
  · next dev off h => exact .inr (.inl ⟨dev, off, h, rfl⟩)
  · exact .inr (.inr rfl)
  · exact .inr (.inr rfl)

/-- A bus write changes nothing but RAM and the history. -/
theorem busWrite_frame (addr : Addr) (v : Byte) (s : State) :
    ∃ m es, busWrite addr v s = (s.setRam m).logEvents es ∧ es.length ≤ 1 ∧
      (s.ram.wf → m.wf) ∧ (s.ram.below 0x800 → m.below 0x800) := by
  rcases busWrite_cases addr v s with ⟨_, h⟩ | ⟨dev, off, _, h⟩ | h
  · exact ⟨_, [], by rw [h, State.logEvents_nil], by simp, fun hw => Memory.wf_write hw _ _,
      fun hb => Memory.below_write hb (Nat.mod_lt _ (by decide)) _⟩
  · exact ⟨s.ram, [.write dev off v], h, by simp, id, id⟩
  · exact ⟨s.ram, [], by rw [h, State.logEvents_nil]; rfl, by simp, id, id⟩

@[simp] theorem busWrite_a (w : Addr) (v : Byte) (s : State) : (busWrite w v s).a = s.a := by
  obtain ⟨m, es, h, -⟩ := busWrite_frame w v s; rw [h]; rfl
@[simp] theorem busWrite_x (w : Addr) (v : Byte) (s : State) : (busWrite w v s).x = s.x := by
  obtain ⟨m, es, h, -⟩ := busWrite_frame w v s; rw [h]; rfl
@[simp] theorem busWrite_y (w : Addr) (v : Byte) (s : State) : (busWrite w v s).y = s.y := by
  obtain ⟨m, es, h, -⟩ := busWrite_frame w v s; rw [h]; rfl
@[simp] theorem busWrite_sp (w : Addr) (v : Byte) (s : State) : (busWrite w v s).sp = s.sp := by
  obtain ⟨m, es, h, -⟩ := busWrite_frame w v s; rw [h]; rfl
@[simp] theorem busWrite_pc (w : Addr) (v : Byte) (s : State) : (busWrite w v s).pc = s.pc := by
  obtain ⟨m, es, h, -⟩ := busWrite_frame w v s; rw [h]; rfl
@[simp] theorem busWrite_p (w : Addr) (v : Byte) (s : State) : (busWrite w v s).p = s.p := by
  obtain ⟨m, es, h, -⟩ := busWrite_frame w v s; rw [h]; rfl
@[simp] theorem busWrite_status (w : Addr) (v : Byte) (s : State) : (busWrite w v s).status = s.status := by
  obtain ⟨m, es, h, -⟩ := busWrite_frame w v s; rw [h]; rfl
@[simp] theorem busWrite_cfg (w : Addr) (v : Byte) (s : State) : (busWrite w v s).cfg = s.cfg := by
  obtain ⟨m, es, h, -⟩ := busWrite_frame w v s; rw [h]; rfl

/-! ## Reading memory with no side effect -/

/-- What `peek` answers depends on the image, its length and RAM alone. -/
theorem peek_congr {s t : State} (hr : t.ram = s.ram) (hc : t.cfg = s.cfg) (addr : Addr) : t.peek addr = s.peek addr := by
  simp only [State.peek, hr, hc]

/-- Two RAM addresses name the same byte exactly when their offsets agree (R54). -/
theorem sameRamByte_iff (addr addr' : Addr) :
    sameRamByte addr addr' ↔
      addr.toNat ≤ 0x1FFF ∧ addr'.toNat ≤ 0x1FFF ∧ addr.toNat % 0x800 = addr'.toNat % 0x800 := by
  have hand : ∀ w : Addr, (w &&& 0x07FF).toNat = w.toNat % 0x800 := fun w => by
    rw [BitVec.toNat_and]
    exact Nat.and_two_pow_sub_one_eq_mod w.toNat 11
  simp only [sameRamByte, BitVec.le_def, ← BitVec.toNat_inj, hand]
  rfl

/-! ## The stack is in RAM (R240) -/

theorem stackAddr_toNat (sp : Byte) : (stackAddr sp).toNat = 0x100 + sp.toNat := by
  simp only [stackAddr, zext16]
  revert sp
  decide

theorem route_stackAddr (prgLen : Nat) (sp : Byte) : route prgLen (stackAddr sp) = .ram (0x100 + sp.toNat) := by
  have h := sp.isLt
  rw [route_ram (by rw [stackAddr_toNat]; omega), stackAddr_toNat, Nat.mod_eq_of_lt (by omega)]

/-- A push writes one byte of page 1 and decrements S; it is never a device access (R240). -/
theorem push_eq (v : Byte) (s : State) :
    push v s = (s.setRam (s.ram.write (0x100 + s.sp.toNat) v)).setSp (s.sp - 1) := by
  simp only [push, busWrite, route_stackAddr, State.setRam_sp]

/-- A pull increments S and reads one byte of page 1; it is never a device access (R241). -/
theorem pull_eq (s : State) : pull s = (s.ram.read (0x100 + (s.sp + 1).toNat), s.setSp (s.sp + 1)) := by
  simp only [pull, busRead, State.setSp_sp, State.setSp_cfg, State.setSp_ram, route_stackAddr]

theorem pushWord_eq (w : Addr) (s : State) :
    pushWord w s =
      (s.setRam ((s.ram.write (0x100 + s.sp.toNat) (hiByte w)).write (0x100 + (s.sp - 1).toNat) (loByte w))).setSp
        (s.sp - 1 - 1) := by
  simp only [pushWord, push_eq]
  rfl

theorem pullWord_eq (s : State) :
    pullWord s =
      (concat (s.ram.read (0x100 + (s.sp + 1 + 1).toNat)) (s.ram.read (0x100 + (s.sp + 1).toNat)),
        s.setSp (s.sp + 1 + 1)) := by
  simp only [pullWord, pull_eq]
  rfl

/-- The break entry: three pushes, I set, and pc from the two image bytes of the IRQ/BRK vector (R214). -/
theorem enterBreak_eq (s : State) :
    enterBreak s =
      ((push (s.p.pack ||| 0x30) (pushWord (s.pc + 1) s)).setP (s.p.setI true)).setPc
        (concat (s.cfg.romRead 0xFFFF) (s.cfg.romRead 0xFFFE)) := by
  simp only [enterBreak]
  rw [busRead_rom (by decide), busRead_rom (by decide), pushWord_eq, push_eq]
  rfl

/-- The return from a break: P from the pulled byte, then pc from the pulled word (R228). -/
theorem returnFromBreak_eq (s : State) :
    returnFromBreak s =
      (pullWord ((pull s).2.setP ((pull s).2.p.restore (pull s).1))).2.setPc
        (pullWord ((pull s).2.setP ((pull s).2.p.restore (pull s).1))).1 := rfl

/-! ## Fetch and operand resolution -/

/-- A fetch adds at most one device read and advances pc by one. -/
theorem fetchByte_spec (s : State) :
    ∃ es, (fetchByte s).2 = (s.logEvents es).setPc (s.pc + 1) ∧ es.length ≤ 1 ∧ onlyReads es := by
  obtain ⟨es, h, hl, hr⟩ := busRead_spec s.pc s
  exact ⟨es, by simp [fetchByte, h], hl, hr⟩

theorem zeroPagePointer_spec (ptr : Byte) (s : State) :
    ∃ es, (zeroPagePointer ptr s).2 = s.logEvents es ∧ es.length ≤ 2 ∧ onlyReads es := by
  obtain ⟨es, h, hl, hr⟩ := busRead_spec (zext16 ptr) s
  obtain ⟨fs, h', hl', hr'⟩ := busRead_spec (zext16 (ptr + 1)) (busRead (zext16 ptr) s).2
  refine ⟨es ++ fs, ?_, by simp; omega, hr.append hr'⟩
  show (busRead (zext16 (ptr + 1)) (busRead (zext16 ptr) s).2).2 = _
  rw [h', h, State.logEvents_append]

theorem absolutePointer_spec (ptr : Addr) (s : State) :
    ∃ es, (absolutePointer ptr s).2 = s.logEvents es ∧ es.length ≤ 2 ∧ onlyReads es := by
  obtain ⟨es, h, hl, hr⟩ := busRead_spec ptr s
  obtain ⟨fs, h', hl', hr'⟩ := busRead_spec (concat (hiByte ptr) (loByte ptr + 1)) (busRead ptr s).2
  refine ⟨es ++ fs, ?_, by simp; omega, hr.append hr'⟩
  show (busRead (concat (hiByte ptr) (loByte ptr + 1)) (busRead ptr s).2).2 = _
  rw [h', h, State.logEvents_append]

/-- The resolver adds at most two device reads and changes nothing else (R103). -/
theorem resolve_spec (form : Addressing) (s : State) :
    ∃ es, (resolve form s).2 = s.logEvents es ∧ es.length ≤ 2 ∧ onlyReads es := by
  have none : ∃ es, s = s.logEvents es ∧ es.length ≤ 2 ∧ onlyReads es := ⟨[], by simp, by simp, onlyReads_nil⟩
  cases form with
  | indexedIndirect z => exact zeroPagePointer_spec (z + s.x) s
  | indirectIndexed z => exact zeroPagePointer_spec z s
  | absoluteIndirect w => exact absolutePointer_spec w s
  | _ => exact none

/-- The operand value adds at most one device read and changes nothing else (R120). -/
theorem operandValue_spec {o : Operand} {s s1 : State} {v : Byte} (h : operandValue o s = some (v, s1)) :
    ∃ es, s1 = s.logEvents es ∧ es.length ≤ 1 ∧ onlyReads es := by
  cases o with
  | none => simp [operandValue] at h
  | immediate w =>
    simp only [operandValue, Option.some.injEq, Prod.mk.injEq] at h
    exact ⟨[], by simp [h.2], by simp, onlyReads_nil⟩
  | address w =>
    simp only [operandValue, Option.some.injEq] at h
    obtain ⟨es, he, hl, hr⟩ := busRead_spec w s
    exact ⟨es, by rw [← he, h], hl, hr⟩

end Sys2Proof.Machine
end

