-- ==== Sys2Proof/Laws/Decode.lean ====
section
/-! SUPPORT. The small facts of the opcode map that later proofs cite: byte order, the row of each byte with its length and
its bytes, and the fetch's view of a byte list. -/

namespace Sys2Proof

/-- `concat` in integer arithmetic (R8). -/
theorem concat_toNat (hi lo : Byte) : (concat hi lo).toNat = hi.toNat * 256 + lo.toNat := by
  have := lo.isLt
  rw [concat, BitVec.toNat_append, ← Nat.shiftLeft_add_eq_or_of_lt this, Nat.shiftLeft_eq]

theorem hiByte_toNat (w : Addr) : (hiByte w).toNat = w.toNat / 256 := by
  have := w.isLt
  simp only [hiByte, BitVec.toNat_setWidth, BitVec.toNat_ushiftRight, Nat.shiftRight_eq_div_pow]
  omega

theorem loByte_toNat (w : Addr) : (loByte w).toNat = w.toNat % 256 := by
  simp only [loByte, BitVec.toNat_setWidth]

/-- The two bytes of a word make the word again (R67). -/
theorem concat_hiByte_loByte (w : Addr) : concat (hiByte w) (loByte w) = w := by
  apply BitVec.eq_of_toNat_eq
  rw [concat_toNat, hiByte_toNat, loByte_toNat]
  omega

theorem hiByte_concat (hi lo : Byte) : hiByte (concat hi lo) = hi := by
  have := lo.isLt
  apply BitVec.eq_of_toNat_eq
  rw [hiByte_toNat, concat_toNat]
  omega

theorem loByte_concat (hi lo : Byte) : loByte (concat hi lo) = lo := by
  have := lo.isLt
  apply BitVec.eq_of_toNat_eq
  rw [loByte_toNat, concat_toNat]
  omega

/-- What a row of the map must meet for the byte it stands at: its instruction has that opcode byte, is well formed, and has
as many operand bytes as the row takes. -/
def Row.sound (opcode : Byte) : Option Row → Prop
  | none => True
  | some (.op0 i) => encode i = [opcode] ∧ i.length = 1 ∧ i.wellFormed = true
  | some (.op1 f) => ∀ v, encode (f v) = [opcode, v] ∧ (f v).length = 2 ∧ (f v).wellFormed = true
  | some (.op2 f) => ∀ w, encode (f w) = [opcode, loByte w, hiByte w] ∧ (f w).length = 3 ∧ (f w).wellFormed = true

/-- Every row of the map is sound for its byte (R85 against R89 and R82). -/
theorem opcodeRow_sound (opcode : Byte) : Row.sound opcode (opcodeRow opcode) := by
  obtain ⟨n, hn, rfl⟩ : ∃ n, n < 256 ∧ opcode = BitVec.ofNat 8 n := ⟨opcode.toNat, opcode.isLt, by simp⟩
  interval_cases n <;> first | exact trivial | exact ⟨rfl, rfl, rfl⟩ | exact fun _ => ⟨rfl, rfl, rfl⟩

/-- What the row of an instruction's own opcode byte must be: it makes the instruction from its own operand bytes. -/
def Row.makes (i : Instr) : Option Row → Prop
  | none => False
  | some (.op0 j) => j = i ∧ i.addressing.bytes = []
  | some (.op1 f) => ∃ v, f v = i ∧ i.addressing.bytes = [v]
  | some (.op2 f) => ∃ w, f w = i ∧ i.addressing.bytes = [loByte w, hiByte w]

theorem Row.makes_op0 {i : Instr} {r : Option Row} (h : r = some (.op0 i)) (hb : i.addressing.bytes = []) : Row.makes i r := by
  subst h; exact ⟨rfl, hb⟩

theorem Row.makes_op1 {i : Instr} {r : Option Row} {f : Byte → Instr} {v : Byte} (h : r = some (.op1 f)) (hf : f v = i)
    (hb : i.addressing.bytes = [v]) : Row.makes i r := by
  subst h; exact ⟨v, hf, hb⟩

theorem Row.makes_op2 {i : Instr} {r : Option Row} {f : Addr → Instr} {w : Addr} (h : r = some (.op2 f)) (hf : f w = i)
    (hb : i.addressing.bytes = [loByte w, hiByte w]) : Row.makes i r := by
  subst h; exact ⟨w, hf, hb⟩

/-- The row of an instruction's opcode byte makes that instruction (R89 against R85). -/
theorem opcodeRow_opcodeByte (i : Instr) : Row.makes i (opcodeRow i.opcodeByte) := by
  cases i <;> dsimp only [Instr.opcodeByte] <;> first
    | exact Row.makes_op0 rfl rfl
    | exact Row.makes_op1 rfl rfl rfl
    | exact Row.makes_op2 rfl rfl rfl

/-! Decoding a list whose first byte has a row of each shape. -/

theorem decode_op0 {opcode : Byte} {i : Instr} (h : opcodeRow opcode = some (.op0 i)) (rest : List Byte) :
    decode (opcode :: rest) = .ok (i, rest) := by simp only [decode, h]

theorem decode_op1 {opcode : Byte} {f : Byte → Instr} (h : opcodeRow opcode = some (.op1 f)) (v : Byte) (rest : List Byte) :
    decode (opcode :: v :: rest) = .ok (f v, rest) := by simp only [decode, h]

theorem decode_op2 {opcode : Byte} {f : Addr → Instr} (h : opcodeRow opcode = some (.op2 f)) (lo hi : Byte)
    (rest : List Byte) : decode (opcode :: lo :: hi :: rest) = .ok (f (concat hi lo), rest) := by simp only [decode, h]

/-- `concat` as a number below 2^16 (R8). -/
theorem concat_eq_ofNat (hi lo : Byte) : concat hi lo = BitVec.ofNat 16 (hi.toNat * 256 + lo.toNat) := by
  have h1 := hi.isLt
  have h2 := lo.isLt
  apply BitVec.eq_of_toNat_eq
  rw [concat_toNat, BitVec.toNat_ofNat]
  omega

end Sys2Proof
end

