-- ==== Sys2Proof/Laws/Exec.lean ====
section
/-! SUPPORT. What executing an instruction can do, said once: `exec` is `execute` of the instruction's kind, operand form
and opcode byte with the rule of its kind; and what one fetch and one cycle can do. -/

namespace Sys2Proof.Machine

/-- The rule of each kind, by the operand shapes it accepts (R119). -/
def handlerOf : Kind → Handler
  | .lda => (.value ruleLda)
  | .ldx => (.value ruleLdx)
  | .ldy => (.value ruleLdy)
  | .sta => (.address ruleSta)
  | .stx => (.address ruleStx)
  | .sty => (.address ruleSty)
  | .clc => (.none ruleClc)
  | .sec => (.none ruleSec)
  | .cli => (.none ruleCli)
  | .sei => (.none ruleSei)
  | .cld => (.none ruleCld)
  | .sed => (.none ruleSed)
  | .clv => (.none ruleClv)
  | .bcc => (.address ruleBcc)
  | .bcs => (.address ruleBcs)
  | .beq => (.address ruleBeq)
  | .bne => (.address ruleBne)
  | .bvc => (.address ruleBvc)
  | .bvs => (.address ruleBvs)
  | .bpl => (.address ruleBpl)
  | .bmi => (.address ruleBmi)
  | .tax => (.none ruleTax)
  | .txa => (.none ruleTxa)
  | .tay => (.none ruleTay)
  | .tya => (.none ruleTya)
  | .tsx => (.none ruleTsx)
  | .txs => (.none ruleTxs)
  | .inx => (.none ruleInx)
  | .iny => (.none ruleIny)
  | .dex => (.none ruleDex)
  | .dey => (.none ruleDey)
  | .and => (.value ruleAnd)
  | .ora => (.value ruleOra)
  | .eor => (.value ruleEor)
  | .adc => (.value ruleAdc)
  | .jmp => (.address ruleJmp)
  | .nop => (.none ruleNop)
  | .asl => (.modify ruleAsl)
  | .bit => (.value ruleBit)
  | .brk => (.none ruleBrk)
  | .cmp => (.value ruleCmp)
  | .cpx => (.value ruleCpx)
  | .cpy => (.value ruleCpy)
  | .dec => (.modifyMemory ruleDec)
  | .inc => (.modifyMemory ruleInc)
  | .jsr => (.address ruleJsr)
  | .lsr => (.modify ruleLsr)
  | .pha => (.none rulePha)
  | .php => (.none rulePhp)
  | .pla => (.none rulePla)
  | .plp => (.none rulePlp)
  | .rol => (.modify ruleRol)
  | .ror => (.modify ruleRor)
  | .rti => (.none ruleRti)
  | .rts => (.none ruleRts)
  | .sbc => (.value ruleSbc)

/-- Every arm of `exec` is the shared `execute` of its row. -/
theorem exec_eq_execute (i : Instr) (s : State) :
    exec i s = execute i.kind i.addressing i.opcodeByte (handlerOf i.kind) s := by
  cases i <;> rfl

/-- Whether a kind accepts an operand of a mode (R119 read on modes). -/
def Handler.acceptsMode : Handler → Mode → Bool
  | .value _, m => m != .implied && m != .accumulator
  | .address _, m => m != .implied && m != .accumulator && m != .immediate
  | .none _, m => m == .implied || m == .accumulator
  | .modify _, m => m != .immediate
  | .modifyMemory _, m => m != .implied && m != .accumulator && m != .immediate

/-- The mode of every row is one its kind accepts (R119). -/
theorem handlerOf_acceptsMode (i : Instr) : (handlerOf i.kind).acceptsMode i.mode = true := by
  cases i <;> rfl

/-- A handler that accepts a mode runs on the operand the mode resolves to. -/
theorem Handler.run_of_acceptsMode {h : Handler} {form : Addressing} (hm : h.acceptsMode form.mode = true) (s : State) :
    ∃ t, h.run (resolve form s).1 (resolve form s).2 = some t := by
  cases h <;> cases form <;>
    first
      | exact ⟨_, rfl⟩
      | (simp [Handler.acceptsMode, Addressing.mode] at hm)

/-- What an instruction does: it raises UnimplementedInstruction after operand resolution, exactly when its kind is not
implemented and `full_isa` is false; otherwise its kind's rule runs on the resolved operand. -/
theorem exec_cases (i : Instr) (s : State) :
    (implemented i.kind = false ∧ s.cfg.fullIsa = false ∧
      exec i s = .next (raise (.unimplementedInstruction i.kind i.mode i.opcodeByte (s.pc - BitVec.ofNat 16 i.length))
        (resolve i.addressing s).2)) ∨
    ((implemented i.kind || s.cfg.fullIsa) = true ∧ ∃ t,
      (handlerOf i.kind).run (resolve i.addressing s).1 (resolve i.addressing s).2 = some t ∧ exec i s = .next t) := by
  obtain ⟨es, hes, -, -⟩ := resolve_spec i.addressing s
  obtain ⟨t, ht⟩ := Handler.run_of_acceptsMode (handlerOf_acceptsMode i) s
  have hc : (resolve i.addressing s).2.cfg = s.cfg := by rw [hes]; rfl
  by_cases hk : (implemented i.kind || s.cfg.fullIsa) = true
  · refine .inr ⟨hk, t, ht, ?_⟩
    rw [exec_eq_execute]
    simp only [execute, hc, hk, ht, if_true]
  · refine .inl ⟨by simp_all, by simp_all, ?_⟩
    rw [exec_eq_execute]
    simp only [execute, hc, hk, if_false, Bool.false_eq_true]
    rfl

/-- An instruction always gives a next state. -/
theorem exec_next (i : Instr) (s : State) : ∃ t, exec i s = .next t := by
  rcases exec_cases i s with ⟨-, -, h⟩ | ⟨-, t, -, h⟩
  · exact ⟨_, h⟩
  · exact ⟨t, h⟩

/-! What an instruction does, by the operand shapes its kind accepts (R119). -/

/-- A kind that takes an operand value: the rule runs on the value, in a state that differs by device reads only. -/
theorem exec_value {i : Instr} {s : State} {rule : Byte → State → State}
    (hk : (implemented i.kind || s.cfg.fullIsa) = true) (hh : handlerOf i.kind = .value rule) :
    ∃ v es, operandOf i s = some (v, s.logEvents es) ∧ exec i s = .next (rule v (s.logEvents es)) := by
  rcases exec_cases i s with ⟨h1, h2, -⟩ | ⟨-, u, h1, h2⟩
  · simp [h1, h2] at hk
  · rw [hh] at h1
    simp only [Handler.run, Option.map_eq_some_iff] at h1
    obtain ⟨⟨v, s1⟩, h3, rfl⟩ := h1
    obtain ⟨es, he, -⟩ := resolve_spec i.addressing s
    obtain ⟨fs, hf, -⟩ := operandValue_spec h3
    rw [he, State.logEvents_append] at hf
    exact ⟨v, es ++ fs, hf ▸ h3, hf ▸ h2⟩

/-- A kind that takes an address: the rule runs on the resolved address, in a state that differs by device reads only. -/
theorem exec_address {i : Instr} {s : State} {rule : Addr → State → State}
    (hk : (implemented i.kind || s.cfg.fullIsa) = true) (hh : handlerOf i.kind = .address rule) :
    ∃ a es, addressOf i s = some (a, s.logEvents es) ∧ exec i s = .next (rule a (s.logEvents es)) := by
  obtain ⟨es, he, -⟩ := resolve_spec i.addressing s
  rcases exec_cases i s with ⟨h1, h2, -⟩ | ⟨-, u, h1, h2⟩
  · simp [h1, h2] at hk
  · rw [hh] at h1
    rcases hr : resolve i.addressing s with ⟨o, s1⟩
    rw [hr] at h1 he
    cases o with
    | address a =>
      simp only [Handler.run, Option.some.injEq] at h1
      exact ⟨a, es, by simp only [addressOf, hr]; rw [← he], by rw [h2, ← h1, ← he]⟩
    | immediate v => simp [Handler.run] at h1
    | none => simp [Handler.run] at h1

/-- A kind that takes no operand: the rule runs on the state as it is. -/
theorem exec_none {i : Instr} {s : State} {rule : State → State}
    (hk : (implemented i.kind || s.cfg.fullIsa) = true) (hh : handlerOf i.kind = .none rule) :
    exec i s = .next (rule s) := by
  have hm := handlerOf_acceptsMode i
  rcases exec_cases i s with ⟨h1, h2, -⟩ | ⟨-, u, h1, h2⟩
  · simp [h1, h2] at hk
  · rw [hh] at h1 hm
    have hr : resolve i.addressing s = (.none, s) := by
      simp only [Instr.mode] at hm
      cases hf : i.addressing <;> rw [hf] at hm <;> first | rfl | (simp [Handler.acceptsMode, Addressing.mode] at hm)
    rw [hr] at h1
    rw [h2, ← Option.some.inj h1]

/-- A read-modify-write form that names memory: one read and one write at the resolved address (R242). -/
theorem exec_modifyAt {i : Instr} {s : State} {rule : Byte → StatusRegister → Byte × StatusRegister}
    (hk : (implemented i.kind || s.cfg.fullIsa) = true)
    (hh : handlerOf i.kind = .modifyMemory rule ∨ handlerOf i.kind = .modify rule ∧ i.mode ≠ .accumulator ∧ i.mode ≠ .implied) :
    ∃ a es, addressOf i s = some (a, s.logEvents es) ∧ exec i s = .next (modifyAt rule a (s.logEvents es)) := by
  obtain ⟨es, he, -⟩ := resolve_spec i.addressing s
  rcases exec_cases i s with ⟨h1, h2, -⟩ | ⟨-, u, h1, h2⟩
  · simp [h1, h2] at hk
  · rcases hr : resolve i.addressing s with ⟨o, s1⟩
    rw [hr] at h1 he
    rcases hh with hh | ⟨hh, hm1, hm2⟩ <;> rw [hh] at h1
    · cases o with
      | address a =>
        simp only [Handler.run, Option.some.injEq] at h1
        exact ⟨a, es, by simp only [addressOf, hr]; rw [← he], by rw [h2, ← h1, ← he]⟩
      | immediate v => simp [Handler.run] at h1
      | none => simp [Handler.run] at h1
    · cases o with
      | address a =>
        simp only [Handler.run, Option.some.injEq] at h1
        exact ⟨a, es, by simp only [addressOf, hr]; rw [← he], by rw [h2, ← h1, ← he]⟩
      | immediate v => simp [Handler.run] at h1
      | none =>
        simp only [Instr.mode] at hm1 hm2
        cases hf : i.addressing <;> rw [hf] at hr hm1 hm2 <;>
          first | exact absurd rfl hm1 | exact absurd rfl hm2 | (simp [resolve] at hr)

/-- A read-modify-write form in Accumulator mode: A is replaced, with no bus access (R242). -/
theorem exec_modifyA {i : Instr} {s : State} {rule : Byte → StatusRegister → Byte × StatusRegister}
    (hk : (implemented i.kind || s.cfg.fullIsa) = true) (hh : handlerOf i.kind = .modify rule) (hm : i.mode = .accumulator) :
    exec i s = .next (modifyA rule s) := by
  rcases exec_cases i s with ⟨h1, h2, -⟩ | ⟨-, u, h1, h2⟩
  · simp [h1, h2] at hk
  · rw [hh] at h1
    have hr : resolve i.addressing s = (.none, s) := by
      simp only [Instr.mode] at hm
      cases hf : i.addressing <;> rw [hf] at hm <;> first | rfl | (simp [Addressing.mode] at hm)
    rw [hr] at h1
    rw [h2, ← Option.some.inj h1]

/-- A kind with an accumulator form has no Implied form (R85). -/
theorem mode_of_modify (i : Instr) {rule : Byte → StatusRegister → Byte × StatusRegister} :
    handlerOf i.kind = .modify rule → i.mode ≠ .implied := by
  cases i <;> first | (intro h; cases h; done) | (intro _ e; cases e)

/-- A branch as one write of pc (R160). -/
theorem branchIf_eq (taken : Bool) (a : Addr) (s : State) : branchIf taken a s = s.setPc (if taken then a else s.pc) := by
  cases taken <;> rfl

/-- What read-modify-write does: device reads, the flags of the rule, and one write at the address (R242). -/
theorem modifyAt_spec (rule : Byte → StatusRegister → Byte × StatusRegister) (a : Addr) (s : State) :
    ∃ es v, modifyAt rule a s = busWrite a v ((s.logEvents es).setP (rule (busRead a s).1 s.p).2) := by
  obtain ⟨es, he, -⟩ := busRead_spec a s
  exact ⟨es, _, by simp only [modifyAt, he]; rfl⟩

/-- What a rule makes of a state, once the device reads `es` of its operand are in the history. -/
def Handler.effect (i : Instr) (s t : State) (es : List DevEvent) : Handler → Prop
  | .value rule => ∃ v, t = rule v (s.logEvents es)
  | .address rule => ∃ a, addressOf i s = some (a, s.logEvents es) ∧ t = rule a (s.logEvents es)
  | .none rule => t = rule s
  | .modify rule => (i.mode = .accumulator ∧ t = modifyA rule s) ∨
      (i.mode ≠ .accumulator ∧ ∃ a, addressOf i s = some (a, s.logEvents es) ∧ t = modifyAt rule a (s.logEvents es))
  | .modifyMemory rule => ∃ a, addressOf i s = some (a, s.logEvents es) ∧ t = modifyAt rule a (s.logEvents es)

/-- Everything an instruction can do: record a fault after its operand's reads, or run its kind's rule. -/
theorem exec_effect {i : Instr} {s t : State} (h : exec i s = .next t) :
    (∃ f es, t = (s.logEvents es).setStatus (.faulted f)) ∨ ∃ es, Handler.effect i s t es (handlerOf i.kind) := by
  rcases exec_cases i s with ⟨-, -, h1⟩ | ⟨hk, -⟩
  · obtain ⟨es, he, -⟩ := resolve_spec i.addressing s
    rw [h, he] at h1; cases h1; exact .inl ⟨_, es, rfl⟩
  · right
    cases hh : handlerOf i.kind with
    | value rule =>
      obtain ⟨v, es, -, h2⟩ := exec_value hk hh
      rw [h] at h2; cases h2; exact ⟨es, v, rfl⟩
    | address rule =>
      obtain ⟨a, es, h1, h2⟩ := exec_address hk hh
      rw [h] at h2; cases h2; exact ⟨es, a, h1, rfl⟩
    | none rule =>
      have h2 := exec_none hk hh
      rw [h] at h2; cases h2; exact ⟨[], rfl⟩
    | modify rule =>
      by_cases hm : i.mode = .accumulator
      · have h2 := exec_modifyA hk hh hm
        rw [h] at h2; cases h2; exact ⟨[], .inl ⟨hm, rfl⟩⟩
      · obtain ⟨a, es, h1, h2⟩ := exec_modifyAt hk (.inr ⟨hh, hm, mode_of_modify i hh⟩)
        rw [h] at h2; cases h2; exact ⟨es, .inr ⟨hm, a, h1, rfl⟩⟩
    | modifyMemory rule =>
      obtain ⟨a, es, h1, h2⟩ := exec_modifyAt hk (.inl hh)
      rw [h] at h2; cases h2; exact ⟨es, a, h1, rfl⟩

/-! ## Fetch -/

/-- What fetching an instruction does: it adds device reads and advances pc over the bytes consumed, one for an undefined
opcode, the instruction's length otherwise (R100, R102). -/
theorem fetchInstr_spec (s : State) :
    ∃ (es : List DevEvent) (n : Nat), (fetchInstr s).2 = (s.logEvents es).setPc (s.pc + BitVec.ofNat 16 n) ∧
      es.length ≤ n ∧ onlyReads es ∧
      ((∃ opcode, (fetchInstr s).1 = .error opcode ∧ opcode = (busRead s.pc s).1 ∧ n = 1) ∨
        (∃ i, (fetchInstr s).1 = .ok i ∧ n = i.length ∧ n ≤ 3)) := by
  obtain ⟨es, h1, hl1, hr1⟩ := fetchByte_spec s
  obtain ⟨fs, h2, hl2, hr2⟩ := fetchByte_spec (fetchByte s).2
  obtain ⟨gs, h3, hl3, hr3⟩ := fetchByte_spec (fetchByte (fetchByte s).2).2
  have e2 : (fetchByte (fetchByte s).2).2 = (s.logEvents (es ++ fs)).setPc (s.pc + BitVec.ofNat 16 2) := by
    rw [h2, h1]
    simp [State.logEvents, State.setPc, BitVec.add_assoc]
  have e3 : (fetchByte (fetchByte (fetchByte s).2).2).2 =
      (s.logEvents (es ++ fs ++ gs)).setPc (s.pc + BitVec.ofNat 16 3) := by
    rw [h3, e2]
    simp [State.logEvents, State.setPc, BitVec.add_assoc]
  have hrow := opcodeRow_sound (fetchByte s).1
  simp only [fetchInstr]
  split
  · exact ⟨es, 1, h1, hl1, hr1, .inl ⟨_, rfl, rfl, rfl⟩⟩
  · next i hi =>
    rw [hi] at hrow
    exact ⟨es, 1, h1, hl1, hr1, .inr ⟨i, rfl, hrow.2.1.symm, by omega⟩⟩
  · next f hf =>
    rw [hf] at hrow
    exact ⟨es ++ fs, 2, e2, by simp; omega, hr1.append hr2, .inr ⟨_, rfl, (hrow _).2.1.symm, by omega⟩⟩
  · next f hf =>
    rw [hf] at hrow
    exact ⟨es ++ fs ++ gs, 3, e3, by simp; omega, (hr1.append hr2).append hr3, .inr ⟨_, rfl, (hrow _).2.1.symm, by omega⟩⟩

end Sys2Proof.Machine
end

