-- ==== Sys2Proof/Laws/Closed.lean ====
section
/-! SUPPORT. What holds along an execution, packaged once: a property of states that the register writes, the bus and
P-writes keeping `P.R` and `P.B` preserve is preserved by every rule, every instruction and every step. -/

namespace Sys2Proof.Machine

theorem ruleAdc_eq (m : Byte) (s : State) :
    ruleAdc m s =
      ((s.setP (s.p.addWithCarry s.a m).2).setA (s.p.addWithCarry s.a m).1).setZN (s.p.addWithCarry s.a m).1 := rfl

theorem ruleSbc_eq (m : Byte) (s : State) :
    ruleSbc m s =
      ((s.setP (s.p.subWithBorrow s.a m).2).setA (s.p.subWithBorrow s.a m).1).setZN (s.p.subWithBorrow s.a m).1 := rfl

/-- A property that the elementary operations of the execute phase preserve. -/
structure Closed (P : State → Prop) : Prop where
  setA : ∀ {v : Byte} {s : State}, P s → P (s.setA v)
  setX : ∀ {v : Byte} {s : State}, P s → P (s.setX v)
  setY : ∀ {v : Byte} {s : State}, P s → P (s.setY v)
  setSp : ∀ {v : Byte} {s : State}, P s → P (s.setSp v)
  setPc : ∀ {w : Addr} {s : State}, P s → P (s.setPc w)
  setP : ∀ {p : StatusRegister} {s : State}, p.r = s.p.r → p.b = s.p.b → P s → P (s.setP p)
  logEvents : ∀ {es : List DevEvent} {s : State}, P s → P (s.logEvents es)
  setRam : ∀ {m : Memory} {s : State}, (s.ram.wf → m.wf) → (s.ram.below 0x800 → m.below 0x800) → P s → P (s.setRam m)

namespace Closed

variable {P : State → Prop} (c : Closed P) {s t : State}
include c

theorem setZN {v : Byte} (h : P s) : P (s.setZN v) := c.setP rfl rfl h

theorem busRead (addr : Addr) (h : P s) : P (busRead addr s).2 := by
  obtain ⟨es, he, -⟩ := busRead_spec addr s
  rw [he]
  exact c.logEvents h

theorem busWrite {addr : Addr} {v : Byte} (h : P s) : P (busWrite addr v s) := by
  obtain ⟨m, es, he, -, hw, hb⟩ := busWrite_frame addr v s
  rw [he]
  exact c.logEvents (c.setRam hw hb h)

theorem push {v : Byte} (h : P s) : P (push v s) := c.setSp (c.busWrite h)

theorem pull (h : P s) : P (pull s).2 := c.busRead _ (c.setSp h)

theorem pushWord {w : Addr} (h : P s) : P (pushWord w s) := c.push (c.push h)

theorem pullWord (h : P s) : P (pullWord s).2 := c.pull (c.pull h)

theorem enterBreak (h : P s) : P (enterBreak s) := by
  have hp : (Machine.push (s.p.pack ||| 0x30) (Machine.pushWord (s.pc + 1) s)).p = s.p := by
    rw [pushWord_eq, push_eq]
    rfl
  rw [enterBreak_eq]
  exact c.setPc (c.setP (by rw [hp]; rfl) (by rw [hp]; rfl) (c.push (c.pushWord h)))

theorem returnFromBreak (h : P s) : P (returnFromBreak s) := by
  rw [returnFromBreak_eq]
  exact c.setPc (c.pullWord (c.setP rfl rfl (c.pull h)))

theorem resolve {form : Addressing} (h : P s) : P (resolve form s).2 := by
  obtain ⟨es, he, -⟩ := resolve_spec form s
  rw [he]
  exact c.logEvents h

theorem branchIf {taken : Bool} {w : Addr} (h : P s) : P (branchIf taken w s) := by
  cases taken
  · exact h
  · exact c.setPc h

theorem value {rule : Byte → State → State} {o : Operand} (hr : (Handler.value rule).run o s = some t)
    (hrule : ∀ {v : Byte} {s : State}, P s → P (rule v s))
    (h : P s) : P t := by
  simp only [Handler.run, Option.map_eq_some_iff] at hr
  obtain ⟨⟨v, s1⟩, hv, rfl⟩ := hr
  obtain ⟨es, rfl, -⟩ := operandValue_spec hv
  exact hrule (c.logEvents h)

omit c in
theorem address {rule : Addr → State → State} {o : Operand} (hr : (Handler.address rule).run o s = some t)
    (hrule : ∀ {w : Addr} {s : State}, P s → P (rule w s))
    (h : P s) : P t := by
  cases o <;> simp only [Handler.run, Option.some.injEq, reduceCtorEq] at hr
  exact hr ▸ hrule h

omit c in
theorem none {rule : State → State} {o : Operand} (hr : (Handler.none rule).run o s = some t)
    (hrule : ∀ {s : State}, P s → P (rule s))
    (h : P s) : P t := by
  cases o <;> simp only [Handler.run, Option.some.injEq, reduceCtorEq] at hr
  exact hr ▸ hrule h

theorem modifyAt {rule : Byte → StatusRegister → Byte × StatusRegister} {addr : Addr}
    (hrule : ∀ m p, (rule m p).2.r = p.r ∧ (rule m p).2.b = p.b) (h : P s) : P (modifyAt rule addr s) :=
  c.busWrite (c.setP (hrule _ _).1 (hrule _ _).2 (c.busRead _ h))

theorem modify {rule : Byte → StatusRegister → Byte × StatusRegister} {o : Operand}
    (hr : (Handler.modify rule).run o s = some t)
    (hrule : ∀ m p, (rule m p).2.r = p.r ∧ (rule m p).2.b = p.b) (h : P s) : P t := by
  cases o <;> simp only [Handler.run, Option.some.injEq, reduceCtorEq] at hr
  · exact hr ▸ c.modifyAt hrule h
  · exact hr ▸ c.setA (c.setP (hrule _ _).1 (hrule _ _).2 h)

theorem modifyMemory {rule : Byte → StatusRegister → Byte × StatusRegister} {o : Operand}
    (hr : (Handler.modifyMemory rule).run o s = some t)
    (hrule : ∀ m p, (rule m p).2.r = p.r ∧ (rule m p).2.b = p.b) (h : P s) : P t := by
  cases o <;> simp only [Handler.run, Option.some.injEq, reduceCtorEq] at hr
  exact hr ▸ c.modifyAt hrule h

/-- Every kind's rule preserves a closed property. -/
theorem run (k : Kind) {o : Operand} (h : P s) (hr : (handlerOf k).run o s = some t) : P t := by
  cases k with
  | lda => exact c.value hr (fun h => c.setZN (c.setA h)) h
  | ldx => exact c.value hr (fun h => c.setZN (c.setX h)) h
  | ldy => exact c.value hr (fun h => c.setZN (c.setY h)) h
  | sta | stx | sty => exact address hr (fun h => c.busWrite h) h
  | clc | sec | cli | sei | cld | sed | clv => exact none hr (fun h => c.setP rfl rfl h) h
  | bcc | bcs | beq | bne | bvc | bvs | bpl | bmi => exact address hr (fun h => c.branchIf h) h
  | tax | tsx | inx | dex => exact none hr (fun h => c.setZN (c.setX h)) h
  | tay | iny | dey => exact none hr (fun h => c.setZN (c.setY h)) h
  | txa | tya => exact none hr (fun h => c.setZN (c.setA h)) h
  | txs => exact none hr (fun h => c.setSp h) h
  | and | ora | eor => exact c.value hr (fun h => c.setZN (c.setA h)) h
  | adc => exact c.value hr (fun h => by rw [ruleAdc_eq]; exact c.setZN (c.setA (c.setP rfl rfl h))) h
  | sbc => exact c.value hr (fun h => by rw [ruleSbc_eq]; exact c.setZN (c.setA (c.setP rfl rfl h))) h
  | jmp => exact address hr (fun h => c.setPc h) h
  | nop => exact none hr id h
  | asl | lsr | rol | ror => exact c.modify hr (fun _ _ => ⟨rfl, rfl⟩) h
  | inc | dec => exact c.modifyMemory hr (fun _ _ => ⟨rfl, rfl⟩) h
  | bit | cmp | cpx | cpy => exact c.value hr (fun h => c.setP rfl rfl h) h
  | pha | php => exact none hr (fun h => c.push h) h
  | pla => exact none hr (fun h => c.setZN (c.setA (c.pull h))) h
  | plp => exact none hr (fun h => c.setP rfl rfl (c.pull h)) h
  | jsr => exact address hr (fun h => c.setPc (c.pushWord h)) h
  | rts => exact none hr (fun h => c.setPc (c.pullWord h)) h
  | brk => exact none hr (fun h => c.enterBreak h) h
  | rti => exact none hr (fun h => c.returnFromBreak h) h

/-- Every instruction preserves a closed property that the recording of UnimplementedInstruction preserves. -/
theorem exec {i : Instr} (hf : ∀ {k m b w} {s : State}, P s → P (raise (.unimplementedInstruction k m b w) s))
    (h : P s) (he : exec i s = .next t) : P t := by
  rcases exec_cases i s with ⟨-, -, h1⟩ | ⟨-, u, h1, h2⟩
  · rw [h1] at he
    cases he
    exact hf (c.resolve h)
  · rw [h2] at he
    cases he
    exact c.run _ (c.resolve h) h1

end Closed

/-- A step that gives a next state is a cycle of a running machine with an admitted image. -/
theorem step_next {s t : State} (h : step s = .next t) :
    s.cfg.admitted = true ∧ s.status = .running ∧ cycle s = .next t := by
  simp only [step] at h
  split at h
  · split at h
    · exact ⟨‹_›, ‹_›, h⟩
    · simp at h
  · simp at h

/-- What a cycle does: it records a DecodeFailure after one fetch, or executes the instruction it fetched. -/
theorem cycle_cases (s : State) :
    (∃ opcode s1, fetchInstr s = (.error opcode, s1) ∧ cycle s = .next (raise (.decodeFailure opcode s.pc) s1)) ∨
    (∃ i s1, fetchInstr s = (.ok i, s1) ∧ cycle s = exec i s1) := by
  simp only [cycle]
  split
  · exact .inl ⟨_, _, ‹_›, rfl⟩
  · exact .inr ⟨_, _, ‹_›, rfl⟩

/-- Every step preserves a closed property that the recording of the two faults a step can raise preserves. -/
theorem Closed.step {P : State → Prop} (c : Closed P) {s t : State}
    (hd : ∀ {b w} {s : State}, P s → P (raise (.decodeFailure b w) s))
    (hu : ∀ {k m b w} {s : State}, P s → P (raise (.unimplementedInstruction k m b w) s))
    (h : P s) (hs : step s = .next t) : P t := by
  obtain ⟨-, -, hc⟩ := step_next hs
  obtain ⟨es, n, hf, -⟩ := fetchInstr_spec s
  have h1 : P (fetchInstr s).2 := by
    rw [hf]
    exact c.setPc (c.logEvents h)
  rcases cycle_cases s with ⟨opcode, s1, he, h2⟩ | ⟨i, s1, he, h2⟩
  · rw [he] at h1
    rw [h2] at hc
    cases hc
    exact hd h1
  · rw [he] at h1
    rw [h2] at hc
    exact c.exec hu h1 hc

end Sys2Proof.Machine
end

