-- ==== Sys2Proof/Laws/PerInstr.lean ====
section
/-! SUPPORT. The family `Encoding`, one lemma per constructor of `Instr`: the instruction is well formed (R89), its
opcode byte decodes to its own kind and mode (R85), and its encoding has the length R80 gives. -/

namespace Sys2Proof.Laws.Encoding

def Statement (i : Instr) : Prop :=
  i.wellFormed = true ∧ decodeOpcode i.opcodeByte = some i.op ∧ (encode i).length = i.length

/-- The statement from an opcode byte written out. -/
theorem of_byte {i : Instr} (b : Byte) (hb : i.opcodeByte = b) (hw : i.wellFormed = true) (hd : decodeOpcode b = some i.op)
    (hl : (encode i).length = i.length) : Statement i :=
  ⟨hw, hb ▸ hd, hl⟩

theorem ldaImm (v : Byte) : Statement (.ldaImm v) := of_byte 0xA9 rfl rfl rfl rfl
theorem ldaZp (z : Byte) : Statement (.ldaZp z) := of_byte 0xA5 rfl rfl rfl rfl
theorem ldaZpX (z : Byte) : Statement (.ldaZpX z) := of_byte 0xB5 rfl rfl rfl rfl
theorem ldaAbs (w : Addr) : Statement (.ldaAbs w) := of_byte 0xAD rfl rfl rfl rfl
theorem ldaAbsX (w : Addr) : Statement (.ldaAbsX w) := of_byte 0xBD rfl rfl rfl rfl
theorem ldaAbsY (w : Addr) : Statement (.ldaAbsY w) := of_byte 0xB9 rfl rfl rfl rfl
theorem ldaIndX (z : Byte) : Statement (.ldaIndX z) := of_byte 0xA1 rfl rfl rfl rfl
theorem ldaIndY (z : Byte) : Statement (.ldaIndY z) := of_byte 0xB1 rfl rfl rfl rfl
theorem ldxImm (v : Byte) : Statement (.ldxImm v) := of_byte 0xA2 rfl rfl rfl rfl
theorem ldxZp (z : Byte) : Statement (.ldxZp z) := of_byte 0xA6 rfl rfl rfl rfl
theorem ldxZpY (z : Byte) : Statement (.ldxZpY z) := of_byte 0xB6 rfl rfl rfl rfl
theorem ldxAbs (w : Addr) : Statement (.ldxAbs w) := of_byte 0xAE rfl rfl rfl rfl
theorem ldxAbsY (w : Addr) : Statement (.ldxAbsY w) := of_byte 0xBE rfl rfl rfl rfl
theorem ldyImm (v : Byte) : Statement (.ldyImm v) := of_byte 0xA0 rfl rfl rfl rfl
theorem ldyZp (z : Byte) : Statement (.ldyZp z) := of_byte 0xA4 rfl rfl rfl rfl
theorem ldyZpX (z : Byte) : Statement (.ldyZpX z) := of_byte 0xB4 rfl rfl rfl rfl
theorem ldyAbs (w : Addr) : Statement (.ldyAbs w) := of_byte 0xAC rfl rfl rfl rfl
theorem ldyAbsX (w : Addr) : Statement (.ldyAbsX w) := of_byte 0xBC rfl rfl rfl rfl
theorem staZp (z : Byte) : Statement (.staZp z) := of_byte 0x85 rfl rfl rfl rfl
theorem staZpX (z : Byte) : Statement (.staZpX z) := of_byte 0x95 rfl rfl rfl rfl
theorem staAbs (w : Addr) : Statement (.staAbs w) := of_byte 0x8D rfl rfl rfl rfl
theorem staAbsX (w : Addr) : Statement (.staAbsX w) := of_byte 0x9D rfl rfl rfl rfl
theorem staAbsY (w : Addr) : Statement (.staAbsY w) := of_byte 0x99 rfl rfl rfl rfl
theorem staIndX (z : Byte) : Statement (.staIndX z) := of_byte 0x81 rfl rfl rfl rfl
theorem staIndY (z : Byte) : Statement (.staIndY z) := of_byte 0x91 rfl rfl rfl rfl
theorem stxZp (z : Byte) : Statement (.stxZp z) := of_byte 0x86 rfl rfl rfl rfl
theorem stxZpY (z : Byte) : Statement (.stxZpY z) := of_byte 0x96 rfl rfl rfl rfl
theorem stxAbs (w : Addr) : Statement (.stxAbs w) := of_byte 0x8E rfl rfl rfl rfl
theorem styZp (z : Byte) : Statement (.styZp z) := of_byte 0x84 rfl rfl rfl rfl
theorem styZpX (z : Byte) : Statement (.styZpX z) := of_byte 0x94 rfl rfl rfl rfl
theorem styAbs (w : Addr) : Statement (.styAbs w) := of_byte 0x8C rfl rfl rfl rfl
theorem clc : Statement (.clc) := of_byte 0x18 rfl rfl rfl rfl
theorem sec : Statement (.sec) := of_byte 0x38 rfl rfl rfl rfl
theorem cli : Statement (.cli) := of_byte 0x58 rfl rfl rfl rfl
theorem sei : Statement (.sei) := of_byte 0x78 rfl rfl rfl rfl
theorem cld : Statement (.cld) := of_byte 0xD8 rfl rfl rfl rfl
theorem sed : Statement (.sed) := of_byte 0xF8 rfl rfl rfl rfl
theorem clv : Statement (.clv) := of_byte 0xB8 rfl rfl rfl rfl
theorem bccRel (off : Byte) : Statement (.bccRel off) := of_byte 0x90 rfl rfl rfl rfl
theorem bcsRel (off : Byte) : Statement (.bcsRel off) := of_byte 0xB0 rfl rfl rfl rfl
theorem beqRel (off : Byte) : Statement (.beqRel off) := of_byte 0xF0 rfl rfl rfl rfl
theorem bneRel (off : Byte) : Statement (.bneRel off) := of_byte 0xD0 rfl rfl rfl rfl
theorem bvcRel (off : Byte) : Statement (.bvcRel off) := of_byte 0x50 rfl rfl rfl rfl
theorem bvsRel (off : Byte) : Statement (.bvsRel off) := of_byte 0x70 rfl rfl rfl rfl
theorem bplRel (off : Byte) : Statement (.bplRel off) := of_byte 0x10 rfl rfl rfl rfl
theorem bmiRel (off : Byte) : Statement (.bmiRel off) := of_byte 0x30 rfl rfl rfl rfl
theorem tax : Statement (.tax) := of_byte 0xAA rfl rfl rfl rfl
theorem txa : Statement (.txa) := of_byte 0x8A rfl rfl rfl rfl
theorem tay : Statement (.tay) := of_byte 0xA8 rfl rfl rfl rfl
theorem tya : Statement (.tya) := of_byte 0x98 rfl rfl rfl rfl
theorem tsx : Statement (.tsx) := of_byte 0xBA rfl rfl rfl rfl
theorem txs : Statement (.txs) := of_byte 0x9A rfl rfl rfl rfl
theorem inx : Statement (.inx) := of_byte 0xE8 rfl rfl rfl rfl
theorem iny : Statement (.iny) := of_byte 0xC8 rfl rfl rfl rfl
theorem dex : Statement (.dex) := of_byte 0xCA rfl rfl rfl rfl
theorem dey : Statement (.dey) := of_byte 0x88 rfl rfl rfl rfl
theorem andImm (v : Byte) : Statement (.andImm v) := of_byte 0x29 rfl rfl rfl rfl
theorem andZp (z : Byte) : Statement (.andZp z) := of_byte 0x25 rfl rfl rfl rfl
theorem andZpX (z : Byte) : Statement (.andZpX z) := of_byte 0x35 rfl rfl rfl rfl
theorem andAbs (w : Addr) : Statement (.andAbs w) := of_byte 0x2D rfl rfl rfl rfl
theorem andAbsX (w : Addr) : Statement (.andAbsX w) := of_byte 0x3D rfl rfl rfl rfl
theorem andAbsY (w : Addr) : Statement (.andAbsY w) := of_byte 0x39 rfl rfl rfl rfl
theorem andIndX (z : Byte) : Statement (.andIndX z) := of_byte 0x21 rfl rfl rfl rfl
theorem andIndY (z : Byte) : Statement (.andIndY z) := of_byte 0x31 rfl rfl rfl rfl
theorem oraImm (v : Byte) : Statement (.oraImm v) := of_byte 0x09 rfl rfl rfl rfl
theorem oraZp (z : Byte) : Statement (.oraZp z) := of_byte 0x05 rfl rfl rfl rfl
theorem oraZpX (z : Byte) : Statement (.oraZpX z) := of_byte 0x15 rfl rfl rfl rfl
theorem oraAbs (w : Addr) : Statement (.oraAbs w) := of_byte 0x0D rfl rfl rfl rfl
theorem oraAbsX (w : Addr) : Statement (.oraAbsX w) := of_byte 0x1D rfl rfl rfl rfl
theorem oraAbsY (w : Addr) : Statement (.oraAbsY w) := of_byte 0x19 rfl rfl rfl rfl
theorem oraIndX (z : Byte) : Statement (.oraIndX z) := of_byte 0x01 rfl rfl rfl rfl
theorem oraIndY (z : Byte) : Statement (.oraIndY z) := of_byte 0x11 rfl rfl rfl rfl
theorem eorImm (v : Byte) : Statement (.eorImm v) := of_byte 0x49 rfl rfl rfl rfl
theorem eorZp (z : Byte) : Statement (.eorZp z) := of_byte 0x45 rfl rfl rfl rfl
theorem eorZpX (z : Byte) : Statement (.eorZpX z) := of_byte 0x55 rfl rfl rfl rfl
theorem eorAbs (w : Addr) : Statement (.eorAbs w) := of_byte 0x4D rfl rfl rfl rfl
theorem eorAbsX (w : Addr) : Statement (.eorAbsX w) := of_byte 0x5D rfl rfl rfl rfl
theorem eorAbsY (w : Addr) : Statement (.eorAbsY w) := of_byte 0x59 rfl rfl rfl rfl
theorem eorIndX (z : Byte) : Statement (.eorIndX z) := of_byte 0x41 rfl rfl rfl rfl
theorem eorIndY (z : Byte) : Statement (.eorIndY z) := of_byte 0x51 rfl rfl rfl rfl
theorem adcImm (v : Byte) : Statement (.adcImm v) := of_byte 0x69 rfl rfl rfl rfl
theorem adcZp (z : Byte) : Statement (.adcZp z) := of_byte 0x65 rfl rfl rfl rfl
theorem adcZpX (z : Byte) : Statement (.adcZpX z) := of_byte 0x75 rfl rfl rfl rfl
theorem adcAbs (w : Addr) : Statement (.adcAbs w) := of_byte 0x6D rfl rfl rfl rfl
theorem adcAbsX (w : Addr) : Statement (.adcAbsX w) := of_byte 0x7D rfl rfl rfl rfl
theorem adcAbsY (w : Addr) : Statement (.adcAbsY w) := of_byte 0x79 rfl rfl rfl rfl
theorem adcIndX (z : Byte) : Statement (.adcIndX z) := of_byte 0x61 rfl rfl rfl rfl
theorem adcIndY (z : Byte) : Statement (.adcIndY z) := of_byte 0x71 rfl rfl rfl rfl
theorem jmpAbs (w : Addr) : Statement (.jmpAbs w) := of_byte 0x4C rfl rfl rfl rfl
theorem jmpInd (w : Addr) : Statement (.jmpInd w) := of_byte 0x6C rfl rfl rfl rfl
theorem nop : Statement (.nop) := of_byte 0xEA rfl rfl rfl rfl
theorem aslAcc : Statement (.aslAcc) := of_byte 0x0A rfl rfl rfl rfl
theorem aslZp (z : Byte) : Statement (.aslZp z) := of_byte 0x06 rfl rfl rfl rfl
theorem aslZpX (z : Byte) : Statement (.aslZpX z) := of_byte 0x16 rfl rfl rfl rfl
theorem aslAbs (w : Addr) : Statement (.aslAbs w) := of_byte 0x0E rfl rfl rfl rfl
theorem aslAbsX (w : Addr) : Statement (.aslAbsX w) := of_byte 0x1E rfl rfl rfl rfl
theorem bitZp (z : Byte) : Statement (.bitZp z) := of_byte 0x24 rfl rfl rfl rfl
theorem bitAbs (w : Addr) : Statement (.bitAbs w) := of_byte 0x2C rfl rfl rfl rfl
theorem brk : Statement (.brk) := of_byte 0x00 rfl rfl rfl rfl
theorem cmpImm (v : Byte) : Statement (.cmpImm v) := of_byte 0xC9 rfl rfl rfl rfl
theorem cmpZp (z : Byte) : Statement (.cmpZp z) := of_byte 0xC5 rfl rfl rfl rfl
theorem cmpZpX (z : Byte) : Statement (.cmpZpX z) := of_byte 0xD5 rfl rfl rfl rfl
theorem cmpAbs (w : Addr) : Statement (.cmpAbs w) := of_byte 0xCD rfl rfl rfl rfl
theorem cmpAbsX (w : Addr) : Statement (.cmpAbsX w) := of_byte 0xDD rfl rfl rfl rfl
theorem cmpAbsY (w : Addr) : Statement (.cmpAbsY w) := of_byte 0xD9 rfl rfl rfl rfl
theorem cmpIndX (z : Byte) : Statement (.cmpIndX z) := of_byte 0xC1 rfl rfl rfl rfl
theorem cmpIndY (z : Byte) : Statement (.cmpIndY z) := of_byte 0xD1 rfl rfl rfl rfl
theorem cpxImm (v : Byte) : Statement (.cpxImm v) := of_byte 0xE0 rfl rfl rfl rfl
theorem cpxZp (z : Byte) : Statement (.cpxZp z) := of_byte 0xE4 rfl rfl rfl rfl
theorem cpxAbs (w : Addr) : Statement (.cpxAbs w) := of_byte 0xEC rfl rfl rfl rfl
theorem cpyImm (v : Byte) : Statement (.cpyImm v) := of_byte 0xC0 rfl rfl rfl rfl
theorem cpyZp (z : Byte) : Statement (.cpyZp z) := of_byte 0xC4 rfl rfl rfl rfl
theorem cpyAbs (w : Addr) : Statement (.cpyAbs w) := of_byte 0xCC rfl rfl rfl rfl
theorem decZp (z : Byte) : Statement (.decZp z) := of_byte 0xC6 rfl rfl rfl rfl
theorem decZpX (z : Byte) : Statement (.decZpX z) := of_byte 0xD6 rfl rfl rfl rfl
theorem decAbs (w : Addr) : Statement (.decAbs w) := of_byte 0xCE rfl rfl rfl rfl
theorem decAbsX (w : Addr) : Statement (.decAbsX w) := of_byte 0xDE rfl rfl rfl rfl
theorem incZp (z : Byte) : Statement (.incZp z) := of_byte 0xE6 rfl rfl rfl rfl
theorem incZpX (z : Byte) : Statement (.incZpX z) := of_byte 0xF6 rfl rfl rfl rfl
theorem incAbs (w : Addr) : Statement (.incAbs w) := of_byte 0xEE rfl rfl rfl rfl
theorem incAbsX (w : Addr) : Statement (.incAbsX w) := of_byte 0xFE rfl rfl rfl rfl
theorem jsrAbs (w : Addr) : Statement (.jsrAbs w) := of_byte 0x20 rfl rfl rfl rfl
theorem lsrAcc : Statement (.lsrAcc) := of_byte 0x4A rfl rfl rfl rfl
theorem lsrZp (z : Byte) : Statement (.lsrZp z) := of_byte 0x46 rfl rfl rfl rfl
theorem lsrZpX (z : Byte) : Statement (.lsrZpX z) := of_byte 0x56 rfl rfl rfl rfl
theorem lsrAbs (w : Addr) : Statement (.lsrAbs w) := of_byte 0x4E rfl rfl rfl rfl
theorem lsrAbsX (w : Addr) : Statement (.lsrAbsX w) := of_byte 0x5E rfl rfl rfl rfl
theorem pha : Statement (.pha) := of_byte 0x48 rfl rfl rfl rfl
theorem php : Statement (.php) := of_byte 0x08 rfl rfl rfl rfl
theorem pla : Statement (.pla) := of_byte 0x68 rfl rfl rfl rfl
theorem plp : Statement (.plp) := of_byte 0x28 rfl rfl rfl rfl
theorem rolAcc : Statement (.rolAcc) := of_byte 0x2A rfl rfl rfl rfl
theorem rolZp (z : Byte) : Statement (.rolZp z) := of_byte 0x26 rfl rfl rfl rfl
theorem rolZpX (z : Byte) : Statement (.rolZpX z) := of_byte 0x36 rfl rfl rfl rfl
theorem rolAbs (w : Addr) : Statement (.rolAbs w) := of_byte 0x2E rfl rfl rfl rfl
theorem rolAbsX (w : Addr) : Statement (.rolAbsX w) := of_byte 0x3E rfl rfl rfl rfl
theorem rorAcc : Statement (.rorAcc) := of_byte 0x6A rfl rfl rfl rfl
theorem rorZp (z : Byte) : Statement (.rorZp z) := of_byte 0x66 rfl rfl rfl rfl
theorem rorZpX (z : Byte) : Statement (.rorZpX z) := of_byte 0x76 rfl rfl rfl rfl
theorem rorAbs (w : Addr) : Statement (.rorAbs w) := of_byte 0x6E rfl rfl rfl rfl
theorem rorAbsX (w : Addr) : Statement (.rorAbsX w) := of_byte 0x7E rfl rfl rfl rfl
theorem rti : Statement (.rti) := of_byte 0x40 rfl rfl rfl rfl
theorem rts : Statement (.rts) := of_byte 0x60 rfl rfl rfl rfl
theorem sbcImm (v : Byte) : Statement (.sbcImm v) := of_byte 0xE9 rfl rfl rfl rfl
theorem sbcZp (z : Byte) : Statement (.sbcZp z) := of_byte 0xE5 rfl rfl rfl rfl
theorem sbcZpX (z : Byte) : Statement (.sbcZpX z) := of_byte 0xF5 rfl rfl rfl rfl
theorem sbcAbs (w : Addr) : Statement (.sbcAbs w) := of_byte 0xED rfl rfl rfl rfl
theorem sbcAbsX (w : Addr) : Statement (.sbcAbsX w) := of_byte 0xFD rfl rfl rfl rfl
theorem sbcAbsY (w : Addr) : Statement (.sbcAbsY w) := of_byte 0xF9 rfl rfl rfl rfl
theorem sbcIndX (z : Byte) : Statement (.sbcIndX z) := of_byte 0xE1 rfl rfl rfl rfl
theorem sbcIndY (z : Byte) : Statement (.sbcIndY z) := of_byte 0xF1 rfl rfl rfl rfl

end Sys2Proof.Laws.Encoding
end

