-- ==== Sys2Proof/Tests/Slice0.lean ====
section
/-! SUPPORT. Tests of the model, each expected result taken from spec/: the well-formedness checks on ill-formed terms, the
decoder on words written out from R82 and R85, one-step vectors of 95_test_vectors.md (V and FV of L2, RV of L2.13), and a
state that meets the hypotheses of each obligation. -/

namespace Sys2Proof.Tests

open Sys2Proof.Machine

/-! ## Well-formedness refuses what is no row of the table (R89) -/

theorem test_ill_formed_store_immediate : OpCode.wellFormed ⟨.sta, .immediate⟩ = false := by decide
theorem test_ill_formed_flag_absolute : OpCode.wellFormed ⟨.sec, .absolute⟩ = false := by decide
theorem test_ill_formed_branch_implied : OpCode.wellFormed ⟨.bne, .implied⟩ = false := by decide
theorem test_ill_formed_ldx_zeroPageX : OpCode.wellFormed ⟨.ldx, .zeroPageX⟩ = false := by decide
theorem test_ill_formed_stx_absoluteY : OpCode.wellFormed ⟨.stx, .absoluteY⟩ = false := by decide
theorem test_ill_formed_inc_accumulator : OpCode.wellFormed ⟨.inc, .accumulator⟩ = false := by decide
theorem test_ill_formed_jsr_indirect : OpCode.wellFormed ⟨.jsr, .absoluteIndirect⟩ = false := by decide

/-- Every row of the decoder's table is well formed (R85 against R89). -/
theorem test_decoded_pairs_well_formed :
    ((List.range 256).filterMap (fun n => decodeOpcode (BitVec.ofNat 8 n))).all OpCode.wellFormed = true := by decide +kernel

/-! The shape check (R119) refuses each operand shape a kind does not accept. -/

theorem test_shape_value_none : (Handler.value ruleLda).run .none State.reset = none := rfl
theorem test_shape_store_immediate : (Handler.address ruleSta).run (.immediate 0x12) State.reset = none := rfl
theorem test_shape_implied_address : (Handler.none ruleNop).run (.address 0x1234) State.reset = none := rfl
theorem test_shape_modify_immediate : (Handler.modify ruleAsl).run (.immediate 0x12) State.reset = none := rfl
theorem test_shape_modifyMemory_none : (Handler.modifyMemory ruleInc).run .none State.reset = none := rfl

/-! ## Decoding, one word of each mode and family written out from R82 and R85 -/

theorem test_decode_lda_immediate : decode [0b10101001, 0b00000101] = .ok (.ldaImm 0x05, []) := rfl
theorem test_decode_sty_zeroPage : decode [0b10000100, 0x7F] = .ok (.styZp 0x7F, []) := rfl
theorem test_decode_ldy_zeroPageX : decode [0b10110100, 0x80] = .ok (.ldyZpX 0x80, []) := rfl
theorem test_decode_ldx_zeroPageY : decode [0b10110110, 0xF8] = .ok (.ldxZpY 0xF8, []) := rfl
theorem test_decode_sta_absolute_little_endian : decode [0b10001101, 0xFF, 0x1F] = .ok (.staAbs 0x1FFF, []) := rfl
theorem test_decode_sta_absoluteX : decode [0b10011101, 0x00, 0x20] = .ok (.staAbsX 0x2000, []) := rfl
theorem test_decode_ldx_absoluteY : decode [0b10111110, 0x90, 0x02] = .ok (.ldxAbsY 0x0290, []) := rfl
theorem test_decode_clv_implied : decode [0b10111000] = .ok (.clv, []) := rfl
theorem test_decode_bmi_relative : decode [0b00110000, 0x80] = .ok (.bmiRel 0x80, []) := rfl
theorem test_decode_tsx : decode [0b10111010] = .ok (.tsx, []) := rfl
theorem test_decode_iny : decode [0b11001000] = .ok (.iny, []) := rfl
theorem test_decode_eor_indexedIndirect : decode [0b01000001, 0x20] = .ok (.eorIndX 0x20, []) := rfl
theorem test_decode_adc_indirectIndexed : decode [0b01110001, 0x20] = .ok (.adcIndY 0x20, []) := rfl
theorem test_decode_jmp_indirect : decode [0b01101100, 0xFF, 0x30] = .ok (.jmpInd 0x30FF, []) := rfl
theorem test_decode_rol_accumulator : decode [0b00101010] = .ok (.rolAcc, []) := rfl
theorem test_decode_brk_leaves_the_rest : decode [0b00000000, 0xEA] = .ok (.brk, [0xEA]) := rfl
theorem test_decode_undefined : decode [0x02, 0xAD, 0x00] = .error (.undefinedOpcode 0x02) := rfl
theorem test_decode_truncated : decode [0xAD, 0x00] = .error (.missingOperandBytes 0xAD) := rfl

/-! The host's word: the first byte in bits 7..0, absent operand bytes 0. -/

theorem test_tableWord_adc_absolute : decodeTableWord 24 0x12346D = some (.adcAbs 0x1234) := by decide
theorem test_tableWord_opcode_only : decodeTableWord 8 0x7D = some (.adcAbsX 0x0000) := by decide
theorem test_tableWord_undefined : decodeTableWord 8 0xFF = none := by decide

/-- A step of the placed state runs the placed instruction, as the first one after reset. -/
theorem test_step_runs_placed_word :
    step (State.reset.withFetchWord 16 0x80A9) =
      .next { State.reset.withFetchWord 16 0x80A9 with
        a := 0x80, p := { State.reset.p with n := true }, pc := State.reset.pc + 2 } := rfl

/-! ## One-step vectors: the base state of L2, and what of a next state is compared -/

/-- The base state of L2: the reset state with a 16 KB image of zeros, pc at the address, and the bytes there (R286). -/
def codeAt (pc : Addr) (bytes : List Byte) : State := placeBytes bytes pc { State.reset with pc := pc }

/-- RAM cells set, by local offset. -/
def cells (s : State) (cs : List (Nat × Byte)) : State :=
  { s with ram := cs.foldl (fun m c => m.write c.1 c.2) s.ram }

/-- Image bytes set, by offset. -/
def image (s : State) (cs : List (Nat × Byte)) : State :=
  { s with cfg := { s.cfg with prg := cs.foldl (fun m c => m.write c.1 c.2) s.cfg.prg } }

/-- `full_isa = true`. -/
def full (s : State) : State := { s with cfg := { s.cfg with fullIsa := true } }

/-- `incdec_wrap = true`. -/
def wrapping (s : State) : State := { s with cfg := { s.cfg with incdecWrap := true } }

/-- `P=20`: every flag false but R. -/
def noFlags : StatusRegister := { n := false, v := false, r := true, b := false, d := false, i := false, z := false, c := false }

/-- What a vector's end column lists of a next state, the run status and all of RAM among it. -/
structure Seen where
  a : Byte
  x : Byte
  y : Byte
  sp : Byte
  pc : Addr
  p : Byte
  status : RunStatus
  ram : Memory
  deriving DecidableEq, Repr

def view : Result → Option Seen
  | .next t => some ⟨t.a, t.x, t.y, t.sp, t.pc, t.p.pack, t.status, t.ram⟩
  | .fault _ => none
  | .refused _ => none

/-! Addressing modes (L2.1). -/

/-- V1: ZeroPageX wraps in page 0. -/
theorem test_V1_zpx_wrap :
    view (step { cells (codeAt 0x8000 [0xB5, 0x80]) [(0x07F, 0x11)] with x := 0xFF }) =
      some ⟨0x11, 0xFF, 0x00, 0x00, 0x8002, 0x20, .running, [(0x07F, 0x11)]⟩ := by decide

/-- V2: ZeroPageY wraps. -/
theorem test_V2_zpy_wrap :
    view (step { cells (codeAt 0x8000 [0xB6, 0xF8]) [(0x008, 0x22)] with y := 0x10 }) =
      some ⟨0x00, 0x22, 0x10, 0x00, 0x8002, 0x20, .running, [(0x008, 0x22)]⟩ := by decide

/-- V3: IndexedIndirect pointer wrap. -/
theorem test_V3_izx_pointer_wrap :
    view (step (cells (codeAt 0x8000 [0xA1, 0xFF]) [(0x000, 0x12), (0x0FF, 0x34), (0x234, 0x56)])) =
      some ⟨0x56, 0x00, 0x00, 0x00, 0x8002, 0x20, .running, [(0x000, 0x12), (0x0FF, 0x34), (0x234, 0x56)]⟩ := by decide

/-- V4: IndexedIndirect with X. -/
theorem test_V4_izx_index :
    view (step { cells (codeAt 0x8000 [0xA1, 0x20]) [(0x025, 0x03), (0x300, 0x77)] with x := 0x04 }) =
      some ⟨0x77, 0x04, 0x00, 0x00, 0x8002, 0x20, .running, [(0x025, 0x03), (0x300, 0x77)]⟩ := by decide

/-- V5: IndirectIndexed. -/
theorem test_V5_izy :
    view (step { cells (codeAt 0x8000 [0xB1, 0x20]) [(0x020, 0x34), (0x021, 0x12), (0x239, 0x66)] with y := 0x05 }) =
      some ⟨0x66, 0x00, 0x05, 0x00, 0x8002, 0x20, .running, [(0x020, 0x34), (0x021, 0x12), (0x239, 0x66)]⟩ := by decide

/-- V6: IndirectIndexed pointer wrap. -/
theorem test_V6_izy_pointer_wrap :
    view (step { cells (codeAt 0x8000 [0xB1, 0xFF]) [(0x000, 0x03), (0x310, 0x99)] with y := 0x10 }) =
      some ⟨0x99, 0x00, 0x10, 0x00, 0x8002, 0xA0, .running, [(0x000, 0x03), (0x310, 0x99)]⟩ := by decide

/-- V7: AbsoluteX page cross. -/
theorem test_V7_abx_page_cross :
    view (step { cells (codeAt 0x8000 [0xBD, 0xFF, 0x12]) [(0x300, 0x44)] with x := 0x01 }) =
      some ⟨0x44, 0x01, 0x00, 0x00, 0x8003, 0x20, .running, [(0x300, 0x44)]⟩ := by decide

/-- V8: AbsoluteX wraps at 0xFFFF. -/
theorem test_V8_abx_wrap :
    view (step { cells (codeAt 0x8000 [0xBD, 0xFF, 0xFF]) [(0x001, 0x55)] with x := 0x02 }) =
      some ⟨0x55, 0x02, 0x00, 0x00, 0x8003, 0x20, .running, [(0x001, 0x55)]⟩ := by decide

/-- V9: AbsoluteY. -/
theorem test_V9_aby :
    view (step { cells (codeAt 0x8000 [0xB9, 0x90, 0x02]) [(0x310, 0x33)] with y := 0x80 }) =
      some ⟨0x33, 0x00, 0x80, 0x00, 0x8003, 0x20, .running, [(0x310, 0x33)]⟩ := by decide

/-- V11: Absolute operand straddles 0xFFFF. -/
theorem test_V11_operand_straddles_top :
    view (step (cells (codeAt 0xFFFE [0xAD, 0x34]) [(0x000, 0x02), (0x234, 0xC3)])) =
      some ⟨0xC3, 0x00, 0x00, 0x00, 0x0001, 0xA0, .running, [(0x000, 0x02), (0x234, 0xC3)]⟩ := by decide

/-! Loads and stores (L2.2). -/

/-- V12: LDA #0. -/
theorem test_V12_lda_zero :
    view (step { codeAt 0x8000 [0xA9, 0x00] with a := 0x55 }) =
      some ⟨0x00, 0x00, 0x00, 0x00, 0x8002, 0x22, .running, []⟩ := by decide

/-- V13: LDA #$80. -/
theorem test_V13_lda_negative :
    view (step (codeAt 0x8000 [0xA9, 0x80])) =
      some ⟨0x80, 0x00, 0x00, 0x00, 0x8002, 0xA0, .running, []⟩ := by decide

/-- V16: LDA ROM mirror 16KB. -/
theorem test_V16_lda_rom_mirror :
    view (step (codeAt 0x8000 [0xAD, 0x00, 0xC0])) =
      some ⟨0xAD, 0x00, 0x00, 0x00, 0x8003, 0xA0, .running, []⟩ := by decide

/-- V17: LDX #$FF. -/
theorem test_V17_ldx :
    view (step (codeAt 0x8000 [0xA2, 0xFF])) =
      some ⟨0x00, 0xFF, 0x00, 0x00, 0x8002, 0xA0, .running, []⟩ := by decide

/-- V18: LDY zp,X. -/
theorem test_V18_ldy_zpx :
    view (step { cells (codeAt 0x8000 [0xB4, 0xFF]) [(0x001, 0x7F)] with x := 0x02 }) =
      some ⟨0x00, 0x02, 0x7F, 0x00, 0x8002, 0x20, .running, [(0x001, 0x7F)]⟩ := by decide

/-- V19: STA to ROM discarded. -/
theorem test_V19_sta_rom_discarded :
    view (step { codeAt 0x8000 [0x8D, 0x00, 0x80] with a := 0x11 }) =
      some ⟨0x11, 0x00, 0x00, 0x00, 0x8003, 0x20, .running, []⟩ := by decide

/-- V20: STA to 0x1FFF mirror. -/
theorem test_V20_sta_mirror :
    view (step { codeAt 0x8000 [0x8D, 0xFF, 0x1F] with a := 0x5A }) =
      some ⟨0x5A, 0x00, 0x00, 0x00, 0x8003, 0x20, .running, [(0x7FF, 0x5A)]⟩ := by decide

/-- V21: STX zp,Y wraps. -/
theorem test_V21_stx_zpy_wrap :
    view (step { codeAt 0x8000 [0x96, 0xF0] with x := 0x3C, y := 0x20 }) =
      some ⟨0x00, 0x3C, 0x20, 0x00, 0x8002, 0x20, .running, [(0x010, 0x3C)]⟩ := by decide

/-- V22: STY abs. -/
theorem test_V22_sty :
    view (step { codeAt 0x8000 [0x8C, 0x00, 0x06] with y := 0x81, p := { noFlags with z := true } }) =
      some ⟨0x00, 0x00, 0x81, 0x00, 0x8003, 0x22, .running, [(0x600, 0x81)]⟩ := by decide

/-! Flag control (L2.3). -/

/-- V24: CLC. -/
theorem test_V24_clc :
    view (step { codeAt 0x8000 [0x18] with p := { noFlags with c := true } }) =
      some ⟨0x00, 0x00, 0x00, 0x00, 0x8001, 0x20, .running, []⟩ := by decide

/-- V25: SEC. -/
theorem test_V25_sec :
    view (step (codeAt 0x8000 [0x38])) =
      some ⟨0x00, 0x00, 0x00, 0x00, 0x8001, 0x21, .running, []⟩ := by decide

/-- V26: CLI. -/
theorem test_V26_cli :
    view (step { codeAt 0x8000 [0x58] with p := { noFlags with i := true } }) =
      some ⟨0x00, 0x00, 0x00, 0x00, 0x8001, 0x20, .running, []⟩ := by decide

/-- V27: SEI. -/
theorem test_V27_sei :
    view (step (codeAt 0x8000 [0x78])) =
      some ⟨0x00, 0x00, 0x00, 0x00, 0x8001, 0x24, .running, []⟩ := by decide

/-- V28: CLD. -/
theorem test_V28_cld :
    view (step { codeAt 0x8000 [0xD8] with p := { noFlags with d := true } }) =
      some ⟨0x00, 0x00, 0x00, 0x00, 0x8001, 0x20, .running, []⟩ := by decide

/-- V29: SED. -/
theorem test_V29_sed :
    view (step (codeAt 0x8000 [0xF8])) =
      some ⟨0x00, 0x00, 0x00, 0x00, 0x8001, 0x28, .running, []⟩ := by decide

/-- V30: CLV. -/
theorem test_V30_clv :
    view (step { codeAt 0x8000 [0xB8] with p := { noFlags with v := true } }) =
      some ⟨0x00, 0x00, 0x00, 0x00, 0x8001, 0x20, .running, []⟩ := by decide

/-! Branches (L2.4). -/

/-- V32: BCC taken. -/
theorem test_V32_bcc :
    view (step (codeAt 0x8000 [0x90, 0x10])) =
      some ⟨0x00, 0x00, 0x00, 0x00, 0x8012, 0x20, .running, []⟩ := by decide

/-- V33: BCC not taken. -/
theorem test_V33_bcc_not :
    view (step { codeAt 0x8000 [0x90, 0x10] with p := { noFlags with c := true } }) =
      some ⟨0x00, 0x00, 0x00, 0x00, 0x8002, 0x21, .running, []⟩ := by decide

/-- V34: BCS taken. -/
theorem test_V34_bcs :
    view (step { codeAt 0x8000 [0xB0, 0x10] with p := { noFlags with c := true } }) =
      some ⟨0x00, 0x00, 0x00, 0x00, 0x8012, 0x21, .running, []⟩ := by decide

/-- V35: BCS not taken. -/
theorem test_V35_bcs_not :
    view (step (codeAt 0x8000 [0xB0, 0x10])) =
      some ⟨0x00, 0x00, 0x00, 0x00, 0x8002, 0x20, .running, []⟩ := by decide

/-- V36: BEQ taken. -/
theorem test_V36_beq :
    view (step { codeAt 0x8000 [0xF0, 0x10] with p := { noFlags with z := true } }) =
      some ⟨0x00, 0x00, 0x00, 0x00, 0x8012, 0x22, .running, []⟩ := by decide

/-- V37: BEQ not taken. -/
theorem test_V37_beq_not :
    view (step (codeAt 0x8000 [0xF0, 0x10])) =
      some ⟨0x00, 0x00, 0x00, 0x00, 0x8002, 0x20, .running, []⟩ := by decide

/-- V38: BNE taken. -/
theorem test_V38_bne :
    view (step (codeAt 0x8000 [0xD0, 0x10])) =
      some ⟨0x00, 0x00, 0x00, 0x00, 0x8012, 0x20, .running, []⟩ := by decide

/-- V39: BNE not taken. -/
theorem test_V39_bne_not :
    view (step { codeAt 0x8000 [0xD0, 0x10] with p := { noFlags with z := true } }) =
      some ⟨0x00, 0x00, 0x00, 0x00, 0x8002, 0x22, .running, []⟩ := by decide

/-- V40: BVC taken. -/
theorem test_V40_bvc :
    view (step (codeAt 0x8000 [0x50, 0x10])) =
      some ⟨0x00, 0x00, 0x00, 0x00, 0x8012, 0x20, .running, []⟩ := by decide

/-- V41: BVC not taken. -/
theorem test_V41_bvc_not :
    view (step { codeAt 0x8000 [0x50, 0x10] with p := { noFlags with v := true } }) =
      some ⟨0x00, 0x00, 0x00, 0x00, 0x8002, 0x60, .running, []⟩ := by decide

/-- V42: BVS taken. -/
theorem test_V42_bvs :
    view (step { codeAt 0x8000 [0x70, 0x10] with p := { noFlags with v := true } }) =
      some ⟨0x00, 0x00, 0x00, 0x00, 0x8012, 0x60, .running, []⟩ := by decide

/-- V43: BVS not taken. -/
theorem test_V43_bvs_not :
    view (step (codeAt 0x8000 [0x70, 0x10])) =
      some ⟨0x00, 0x00, 0x00, 0x00, 0x8002, 0x20, .running, []⟩ := by decide

/-- V44: BPL taken. -/
theorem test_V44_bpl :
    view (step (codeAt 0x8000 [0x10, 0x10])) =
      some ⟨0x00, 0x00, 0x00, 0x00, 0x8012, 0x20, .running, []⟩ := by decide

/-- V50: BPL target wraps past 0xFFFF. -/
theorem test_V50_bpl_wraps :
    view (step (codeAt 0xFFFA [0x10, 0x04])) =
      some ⟨0x00, 0x00, 0x00, 0x00, 0x0000, 0x20, .running, []⟩ := by decide

/-- V47: BMI not taken. -/
theorem test_V47_bmi_not :
    view (step (codeAt 0x8000 [0x30, 0x10])) =
      some ⟨0x00, 0x00, 0x00, 0x00, 0x8002, 0x20, .running, []⟩ := by decide

/-- V49: BMI offset 0x80. -/
theorem test_V49_bmi_backward :
    view (step { codeAt 0x800E [0x30, 0x80] with p := { noFlags with n := true } }) =
      some ⟨0x00, 0x00, 0x00, 0x00, 0x7F90, 0xA0, .running, []⟩ := by decide

/-! Transfers (L2.5). -/

/-- V51: TAX zero. -/
theorem test_V51_tax :
    view (step { codeAt 0x8000 [0xAA] with x := 0x05 }) =
      some ⟨0x00, 0x00, 0x00, 0x00, 0x8001, 0x22, .running, []⟩ := by decide

/-- V52: TXA. -/
theorem test_V52_txa :
    view (step { codeAt 0x8000 [0x8A] with x := 0x80 }) =
      some ⟨0x80, 0x80, 0x00, 0x00, 0x8001, 0xA0, .running, []⟩ := by decide

/-- V53: TAY. -/
theorem test_V53_tay :
    view (step { codeAt 0x8000 [0xA8] with a := 0x7F }) =
      some ⟨0x7F, 0x00, 0x7F, 0x00, 0x8001, 0x20, .running, []⟩ := by decide

/-- V54: TYA. -/
theorem test_V54_tya :
    view (step { codeAt 0x8000 [0x98] with y := 0xFF }) =
      some ⟨0xFF, 0x00, 0xFF, 0x00, 0x8001, 0xA0, .running, []⟩ := by decide

/-- V55: TSX after reset. -/
theorem test_V55_tsx :
    view (step (codeAt 0x8000 [0xBA])) =
      some ⟨0x00, 0x00, 0x00, 0x00, 0x8001, 0x22, .running, []⟩ := by decide

/-- V56: TXS keeps flags. -/
theorem test_V56_txs :
    view (step { codeAt 0x8000 [0x9A] with p := { noFlags with n := true } }) =
      some ⟨0x00, 0x00, 0x00, 0x00, 0x8001, 0xA0, .running, []⟩ := by decide

/-! Increments and decrements (L2.6). -/

/-- V57: INX 0xFF. -/
theorem test_V57_inx_saturates :
    view (step { codeAt 0x8000 [0xE8] with x := 0xFF }) =
      some ⟨0x00, 0xFF, 0x00, 0x00, 0x8001, 0xA0, .running, []⟩ := by decide

/-- V61: INX 0xFF. -/
theorem test_V61_inx_wraps :
    view (step { wrapping (codeAt 0x8000 [0xE8]) with x := 0xFF }) =
      some ⟨0x00, 0x00, 0x00, 0x00, 0x8001, 0x22, .running, []⟩ := by decide

/-- V58: INY 0xFF. -/
theorem test_V58_iny_saturates :
    view (step { codeAt 0x8000 [0xC8] with y := 0xFF }) =
      some ⟨0x00, 0x00, 0xFF, 0x00, 0x8001, 0xA0, .running, []⟩ := by decide

/-- V62: INY 0xFF. -/
theorem test_V62_iny_wraps :
    view (step { wrapping (codeAt 0x8000 [0xC8]) with y := 0xFF }) =
      some ⟨0x00, 0x00, 0x00, 0x00, 0x8001, 0x22, .running, []⟩ := by decide

/-- V59: DEX 0x00. -/
theorem test_V59_dex_saturates :
    view (step (codeAt 0x8000 [0xCA])) =
      some ⟨0x00, 0x00, 0x00, 0x00, 0x8001, 0x22, .running, []⟩ := by decide

/-- V63: DEX 0x00. -/
theorem test_V63_dex_wraps :
    view (step (wrapping (codeAt 0x8000 [0xCA]))) =
      some ⟨0x00, 0xFF, 0x00, 0x00, 0x8001, 0xA0, .running, []⟩ := by decide

/-- V60: DEY 0x00. -/
theorem test_V60_dey_saturates :
    view (step (codeAt 0x8000 [0x88])) =
      some ⟨0x00, 0x00, 0x00, 0x00, 0x8001, 0x22, .running, []⟩ := by decide

/-- V64: DEY 0x00. -/
theorem test_V64_dey_wraps :
    view (step (wrapping (codeAt 0x8000 [0x88]))) =
      some ⟨0x00, 0x00, 0xFF, 0x00, 0x8001, 0xA0, .running, []⟩ := by decide

/-! Logical operations and ADC (L2.7). -/

/-- V68: AND #$3C. -/
theorem test_V68_and :
    view (step { codeAt 0x8000 [0x29, 0x3C] with a := 0xF0 }) =
      some ⟨0x30, 0x00, 0x00, 0x00, 0x8002, 0x20, .running, []⟩ := by decide

/-- V69: AND zero. -/
theorem test_V69_and_zero :
    view (step { codeAt 0x8000 [0x29, 0x0F] with a := 0xF0 }) =
      some ⟨0x00, 0x00, 0x00, 0x00, 0x8002, 0x22, .running, []⟩ := by decide

/-- V70: ORA #$80. -/
theorem test_V70_ora :
    view (step { codeAt 0x8000 [0x09, 0x80] with a := 0x0F }) =
      some ⟨0x8F, 0x00, 0x00, 0x00, 0x8002, 0xA0, .running, []⟩ := by decide

/-- V71: EOR self. -/
theorem test_V71_eor_zp :
    view (step { cells (codeAt 0x8000 [0x45, 0x10]) [(0x010, 0x5A)] with a := 0x5A }) =
      some ⟨0x00, 0x00, 0x00, 0x00, 0x8002, 0x22, .running, [(0x010, 0x5A)]⟩ := by decide

/-- V72: EOR #$FF. -/
theorem test_V72_eor :
    view (step { codeAt 0x8000 [0x49, 0xFF] with a := 0x0F }) =
      some ⟨0xF0, 0x00, 0x00, 0x00, 0x8002, 0xA0, .running, []⟩ := by decide

/-- V73: ADC 50+50. -/
theorem test_V73_adc_overflow :
    view (step { codeAt 0x8000 [0x69, 0x50] with a := 0x50 }) =
      some ⟨0xA0, 0x00, 0x00, 0x00, 0x8002, 0xE0, .running, []⟩ := by decide

/-- V77: ADC FF+FF+C. -/
theorem test_V77_adc_carry_chain :
    view (step { codeAt 0x8000 [0x69, 0xFF] with a := 0xFF, p := { noFlags with c := true } }) =
      some ⟨0xFF, 0x00, 0x00, 0x00, 0x8002, 0xA1, .running, []⟩ := by decide

/-- V78: ADC zp with carry in. -/
theorem test_V78_adc_zp :
    view (step { cells (codeAt 0x8000 [0x65, 0x10]) [(0x010, 0x20)] with a := 0x10, p := { noFlags with c := true } }) =
      some ⟨0x31, 0x00, 0x00, 0x00, 0x8002, 0x20, .running, [(0x010, 0x20)]⟩ := by decide

/-! JMP and NOP (L2.8). -/

/-- V81: JMP abs. -/
theorem test_V81_jmp :
    view (step (codeAt 0x8000 [0x4C, 0x34, 0x12])) =
      some ⟨0x00, 0x00, 0x00, 0x00, 0x1234, 0x20, .running, []⟩ := by decide

/-- V82: JMP (ind) no quirk. -/
theorem test_V82_jmp_ind :
    view (step (cells (codeAt 0x8000 [0x6C, 0x10, 0x02]) [(0x211, 0x90)])) =
      some ⟨0x00, 0x00, 0x00, 0x00, 0x9000, 0x20, .running, [(0x211, 0x90)]⟩ := by decide

/-- V83: JMP (ind) page quirk. -/
theorem test_V83_jmp_ind_page_quirk :
    view (step (cells (codeAt 0x8000 [0x6C, 0xFF, 0x02]) [(0x200, 0x80), (0x2FF, 0x40), (0x300, 0x90)])) =
      some ⟨0x00, 0x00, 0x00, 0x00, 0x8040, 0x20, .running, [(0x200, 0x80), (0x2FF, 0x40), (0x300, 0x90)]⟩ := by decide

/-- V84: NOP. -/
theorem test_V84_nop :
    view (step { codeAt 0x8000 [0xEA] with a := 0x12, p := { noFlags with c := true } }) =
      some ⟨0x12, 0x00, 0x00, 0x00, 0x8001, 0x21, .running, []⟩ := by decide

/-! Kinds outside the CORE, and undefined bytes (L2.9, L2.10). -/

/-- V85: BRK in CORE. -/
theorem test_V85_brk_core :
    view (step (codeAt 0x8000 [0x00])) =
      some ⟨0x00, 0x00, 0x00, 0x00, 0x8001, 0x20, .faulted (.unimplementedInstruction .brk .implied 0x00 0x8000), []⟩ := by decide

/-- V86: ASL A in CORE. -/
theorem test_V86_asl_core :
    view (step { codeAt 0x8000 [0x0A] with a := 0x81 }) =
      some ⟨0x81, 0x00, 0x00, 0x00, 0x8001, 0x20, .faulted (.unimplementedInstruction .asl .accumulator 0x0A 0x8000), []⟩ := by decide

/-- V87: SBC (zp),Y in CORE (pointer reads done). -/
theorem test_V87_sbc_core :
    view (step { cells (codeAt 0x8000 [0xF1, 0x20]) [(0x021, 0x03)] with a := 0x10 }) =
      some ⟨0x10, 0x00, 0x00, 0x00, 0x8002, 0x20, .faulted (.unimplementedInstruction .sbc .indirectIndexed 0xF1 0x8000), [(0x021, 0x03)]⟩ := by decide

/-- V88: JSR in CORE. -/
theorem test_V88_jsr_core :
    view (step (codeAt 0x8000 [0x20, 0x00, 0x90])) =
      some ⟨0x00, 0x00, 0x00, 0x00, 0x8003, 0x20, .faulted (.unimplementedInstruction .jsr .absolute 0x20 0x8000), []⟩ := by decide

/-- V89: RMW INC in CORE. -/
theorem test_V89_inc_core :
    view (step (cells (codeAt 0x8000 [0xEE, 0x00, 0x02]) [(0x200, 0x41)])) =
      some ⟨0x00, 0x00, 0x00, 0x00, 0x8003, 0x20, .faulted (.unimplementedInstruction .inc .absolute 0xEE 0x8000), [(0x200, 0x41)]⟩ := by decide

/-- V90: undefined 02. -/
theorem test_V90_undefined_02 :
    view (step (codeAt 0x8000 [0x02])) =
      some ⟨0x00, 0x00, 0x00, 0x00, 0x8001, 0x20, .faulted (.decodeFailure 0x02 0x8000), []⟩ := by decide

/-- V93: unofficial EB. -/
theorem test_V93_undefined_EB :
    view (step { codeAt 0x8000 [0xEB, 0x01] with a := 0x05 }) =
      some ⟨0x05, 0x00, 0x00, 0x00, 0x8001, 0x20, .faulted (.decodeFailure 0xEB 0x8000), []⟩ := by decide

/-! The 19 kinds under `full_isa` (L2.11). -/

/-- V95: ASL A. -/
theorem test_V95_asl :
    view (step { full (codeAt 0x8000 [0x0A]) with a := 0x81 }) =
      some ⟨0x02, 0x00, 0x00, 0x00, 0x8001, 0x21, .running, []⟩ := by decide

/-- V96: LSR A. -/
theorem test_V96_lsr :
    view (step { full (codeAt 0x8000 [0x4A]) with a := 0x81 }) =
      some ⟨0x40, 0x00, 0x00, 0x00, 0x8001, 0x21, .running, []⟩ := by decide

/-- V97: ROL A. -/
theorem test_V97_rol :
    view (step { full (codeAt 0x8000 [0x2A]) with a := 0x40, p := { noFlags with c := true } }) =
      some ⟨0x81, 0x00, 0x00, 0x00, 0x8001, 0xA0, .running, []⟩ := by decide

/-- V98: ROR A. -/
theorem test_V98_ror :
    view (step { full (codeAt 0x8000 [0x6A]) with a := 0x02, p := { noFlags with c := true } }) =
      some ⟨0x81, 0x00, 0x00, 0x00, 0x8001, 0xA0, .running, []⟩ := by decide

/-- V99: INC abs. -/
theorem test_V99_inc :
    view (step (full (cells (codeAt 0x8000 [0xEE, 0x00, 0x02]) [(0x200, 0xFF)]))) =
      some ⟨0x00, 0x00, 0x00, 0x00, 0x8003, 0x22, .running, []⟩ := by decide

/-- V100: DEC zp ignores incdec_wrap. -/
theorem test_V100_dec :
    view (step (full (codeAt 0x8000 [0xC6, 0x10]))) =
      some ⟨0x00, 0x00, 0x00, 0x00, 0x8002, 0xA0, .running, [(0x010, 0xFF)]⟩ := by decide

/-- V101: BIT zp. -/
theorem test_V101_bit :
    view (step { full (cells (codeAt 0x8000 [0x24, 0x10]) [(0x010, 0xC0)]) with a := 0x01 }) =
      some ⟨0x01, 0x00, 0x00, 0x00, 0x8002, 0xE2, .running, [(0x010, 0xC0)]⟩ := by decide

/-- V102: CMP equal. -/
theorem test_V102_cmp :
    view (step { full (codeAt 0x8000 [0xC9, 0x40]) with a := 0x40 }) =
      some ⟨0x40, 0x00, 0x00, 0x00, 0x8002, 0x23, .running, []⟩ := by decide

/-- V103: CPX less. -/
theorem test_V103_cpx :
    view (step { full (codeAt 0x8000 [0xE0, 0x06]) with x := 0x05 }) =
      some ⟨0x00, 0x05, 0x00, 0x00, 0x8002, 0xA0, .running, []⟩ := by decide

/-- V104: CPY greater. -/
theorem test_V104_cpy :
    view (step { full (codeAt 0x8000 [0xC0, 0x01]) with y := 0x10 }) =
      some ⟨0x00, 0x00, 0x10, 0x00, 0x8002, 0x21, .running, []⟩ := by decide

/-- V105: SBC 50-F0. -/
theorem test_V105_sbc :
    view (step { full (codeAt 0x8000 [0xE9, 0xF0]) with a := 0x50, p := { noFlags with c := true } }) =
      some ⟨0x60, 0x00, 0x00, 0x00, 0x8002, 0x20, .running, []⟩ := by decide

/-- V107: SBC 80-01 overflow. -/
theorem test_V107_sbc_overflow :
    view (step { full (codeAt 0x8000 [0xE9, 0x01]) with a := 0x80, p := { noFlags with c := true } }) =
      some ⟨0x7F, 0x00, 0x00, 0x00, 0x8002, 0x61, .running, []⟩ := by decide

/-- V108: PHA. -/
theorem test_V108_pha :
    view (step { full (codeAt 0x8000 [0x48]) with a := 0x12, sp := 0xFF }) =
      some ⟨0x12, 0x00, 0x00, 0xFE, 0x8001, 0x20, .running, [(0x1FF, 0x12)]⟩ := by decide

/-- V109: PHP. -/
theorem test_V109_php :
    view (step { full (codeAt 0x8000 [0x08]) with sp := 0xFF, p := { noFlags with c := true } }) =
      some ⟨0x00, 0x00, 0x00, 0xFE, 0x8001, 0x21, .running, [(0x1FF, 0x31)]⟩ := by decide

/-- V110: PLA. -/
theorem test_V110_pla :
    view (step { full (cells (codeAt 0x8000 [0x68]) [(0x1FF, 0x80)]) with sp := 0xFE }) =
      some ⟨0x80, 0x00, 0x00, 0xFF, 0x8001, 0xA0, .running, [(0x1FF, 0x80)]⟩ := by decide

/-- V111: PLP ignores bits 5 and 4. -/
theorem test_V111_plp :
    view (step { full (cells (codeAt 0x8000 [0x28]) [(0x1FF, 0xFF)]) with sp := 0xFE }) =
      some ⟨0x00, 0x00, 0x00, 0xFF, 0x8001, 0xEF, .running, [(0x1FF, 0xFF)]⟩ := by decide

/-- V112: JSR. -/
theorem test_V112_jsr :
    view (step { full (codeAt 0x8000 [0x20, 0x00, 0x90]) with sp := 0xFF }) =
      some ⟨0x00, 0x00, 0x00, 0xFD, 0x9000, 0x20, .running, [(0x1FE, 0x02), (0x1FF, 0x80)]⟩ := by decide

/-- V113: RTS. -/
theorem test_V113_rts :
    view (step { full (cells (codeAt 0x8000 [0x60]) [(0x1FE, 0x02), (0x1FF, 0x80)]) with sp := 0xFD }) =
      some ⟨0x00, 0x00, 0x00, 0xFF, 0x8003, 0x20, .running, [(0x1FE, 0x02), (0x1FF, 0x80)]⟩ := by decide

/-- V114: RTI. -/
theorem test_V114_rti :
    view (step { full (cells (codeAt 0x8000 [0x40]) [(0x1FD, 0x30), (0x1FE, 0x04), (0x1FF, 0x80)]) with sp := 0xFC }) =
      some ⟨0x00, 0x00, 0x00, 0xFF, 0x8004, 0x20, .running, [(0x1FD, 0x30), (0x1FE, 0x04), (0x1FF, 0x80)]⟩ := by decide

/-- V115: BRK. -/
theorem test_V115_brk :
    view (step { full (image (codeAt 0x8002 [0x00]) [(0x3FFF, 0x90)]) with sp := 0xFF }) =
      some ⟨0x00, 0x00, 0x00, 0xFC, 0x9000, 0x24, .running, [(0x1FD, 0x30), (0x1FE, 0x04), (0x1FF, 0x80)]⟩ := by decide

/-! Fault corners (L2.14), device accesses (L2.12: the draws are free) and host calls (L2.13). -/

/-- FV1: an undefined byte at 0xFFFF; pc wraps. -/
theorem test_FV1_decode_failure_at_top :
    view (step (codeAt 0xFFFF [0xFF])) =
      some ⟨0x00, 0x00, 0x00, 0x00, 0x0000, 0x20, .faulted (.decodeFailure 0xFF 0xFFFF), []⟩ := by decide

/-- FV2: a three-byte instruction of the 19 kinds straddling 0xFFFF. -/
theorem test_FV2_unimplemented_straddles_top :
    view (step (codeAt 0xFFFE [0x20, 0x34, 0x00])) =
      some ⟨0x00, 0x00, 0x00, 0x00, 0x0001, 0x20,
        .faulted (.unimplementedInstruction .jsr .absolute 0x20 0xFFFE), []⟩ := by decide

/-- V119: a store reaching a PPU mirror. -/
theorem test_V119_sta_ppu_mirror :
    step { codeAt 0x8000 [0x9D, 0x00, 0x20] with a := 0x5A, x := 0x08 } =
      .next { codeAt 0x8000 [0x9D, 0x00, 0x20] with
        a := 0x5A, x := 0x08, pc := 0x8003, history := [.write .ppu 0 0x5A] } := rfl

/-- V120: a store to the DMA port starts no transfer. -/
theorem test_V120_sta_dma :
    step { codeAt 0x8000 [0x8D, 0x14, 0x40] with a := 0x07 } =
      .next { codeAt 0x8000 [0x8D, 0x14, 0x40] with a := 0x07, pc := 0x8003, history := [.write .dma 0 0x07] } := rfl

/-- V123: 0x4017 is APU. -/
theorem test_V123_ldx_apu :
    step (codeAt 0x8000 [0xAE, 0x17, 0x40]) =
      .next { codeAt 0x8000 [0xAE, 0x17, 0x40] with
        x := Config.devRead [] .apu 0x17
        p := { noFlags with
          z := (Config.devRead [] .apu 0x17 == 0x00), n := (Config.devRead [] .apu 0x17).getLsbD 7 }
        pc := 0x8003, history := [.read .apu 0x17] } := rfl

/-- V131: a pointer read from the PPU, low byte first. -/
theorem test_V131_jmp_through_device_bytes :
    step (codeAt 0x8000 [0x6C, 0x00, 0x30]) =
      .next { codeAt 0x8000 [0x6C, 0x00, 0x30] with
        pc := concat (Config.devRead [.read .ppu 0] .ppu 1) (Config.devRead [] .ppu 0)
        history := [.read .ppu 0, .read .ppu 1] } := rfl

/-- RV1: reset of a faulted machine with a 16 KB image; RAM is kept. -/
theorem test_RV1_reset :
    view (.next (hostReset { image (cells (codeAt 0x1234 []) [(0x000, 0xAB)]) [(0x3FFD, 0x80)] with
      a := 0x55, x := 0x01, y := 0x02, sp := 0xFF, status := .faulted (.decodeFailure 0x02 0x8000),
      p := { n := true, v := true, r := true, b := false, d := true, i := true, z := true, c := true } })) =
      some ⟨0x00, 0x00, 0x00, 0x00, 0x8000, 0x20, .running, [(0x000, 0xAB)]⟩ := by decide

/-- RV2: the vector of a 32 KB image. -/
theorem test_RV2_reset_32K :
    (hostReset (State.powerOn
      { prg := [(0x7FFC, 0x34), (0x7FFD, 0x12)], prgLen := 0x8000, incdecWrap := false, fullIsa := false } [])).pc =
      0x1234 := by decide

/-- RV6: refused image lengths. -/
theorem test_RV6_refused_lengths :
    configure { Config.default with prgLen := 0x6000 } [] = .refused .romLength ∧
    configure { Config.default with prgLen := 0x2000 } [] = .refused .romLength ∧
    configure { Config.default with prgLen := 0x0000 } [] = .refused .romLength := ⟨rfl, rfl, rfl⟩

/-- RV7: an image longer than 32 KB is admitted, and its vector stands at 0x7FFC. -/
theorem test_RV7_long_image :
    (hostReset (State.powerOn
      { prg := [(0x7FFC, 0x34), (0x7FFD, 0x12), (0xFFFC, 0x99)], prgLen := 0x10000, incdecWrap := false, fullIsa := false }
      [])).pc = 0x1234 := by decide

/-! ## A state and operands that meet the hypotheses of each obligation, one theorem per obligation that has any -/

/-- The reset state under `full_isa`. -/
def fullReset : State := full State.reset

theorem witness_PowerOnZeroesTheRegisterFile : Config.default.admitted = true := rfl

theorem witness_RomLengthDecidesAdmission :
    (∀ n ∈ [0x0000, 0x3FFF, 0x4001, 0x7FFF], n ≠ 0x4000 ∧ n < 0x8000) ∧
    (∃ s : State, s.cfg = { Config.default with prgLen := 0x7FFF }) ∧
    (∀ n ∈ [0x4000, 0x8000, 0x8001], n = 0x4000 ∨ 0x8000 ≤ n) ∧
    0x8000 ≤ (0x8000 : Addr).toNat ∧ 0x8000 ≤ (0xFFFF : Addr).toNat :=
  ⟨by decide, ⟨State.powerOn { Config.default with prgLen := 0x7FFF } [], rfl⟩, by decide, by decide, by decide⟩

theorem witness_ResetLengths :
    State.reset.cfg.prgLen = 0x4000 ∧
    0x8000 ≤ (State.powerOn { Config.default with prgLen := 0x8000 } []).cfg.prgLen := by decide

theorem witness_StepKeepsTheInvariant : ∃ t, State.reset.Inv ∧ step State.reset = .next t :=
  ⟨_, ⟨by decide, by decide, by decide, by decide, rfl, rfl, fun _ _ h => nomatch h⟩, rfl⟩

theorem witness_ReachableStatesMeetTheInvariant :
    Config.default.prg.wf ∧ Config.default.prg.below Config.default.prgLen ∧ Memory.wf [(0x7FF, 0x01)] ∧
      Memory.below [(0x7FF, 0x01)] 0x800 ∧
      Reachable Config.default [(0x7FF, 0x01)] (hostReset (State.powerOn Config.default [(0x7FF, 0x01)])) :=
  ⟨by decide, by decide, by decide, by decide, .called .reset (.configured rfl) rfl⟩

theorem witness_StepRunsTheDecodedInstruction :
    (codeAt 0x8000 [0xAD, 0x34, 0x12]).cfg.admitted = true ∧ (codeAt 0x8000 [0xAD, 0x34, 0x12]).status = .running ∧
      decode (fetchBytes 3 (codeAt 0x8000 [0xAD, 0x34, 0x12])).1 = .ok (.ldaAbs 0x1234, []) := ⟨rfl, rfl, rfl⟩

theorem witness_UndefinedOpcodeRaisesDecodeFailure :
    (codeAt 0x8000 [0x02]).cfg.admitted = true ∧ (codeAt 0x8000 [0x02]).status = .running ∧
      (busRead (codeAt 0x8000 [0x02]).pc (codeAt 0x8000 [0x02])).1 = 0x02 ∧
      decodeOpcode (busRead (codeAt 0x8000 [0x02]).pc (codeAt 0x8000 [0x02])).1 = none := ⟨rfl, rfl, rfl, rfl⟩

theorem witness_UndefinedBytesAreTheStatedOnes :
    decodeOpcode 0x02 = none ∧ decodeOpcode 0xFF = none ∧ decodeOpcode 0x01 ≠ none ∧ decodeOpcode 0xFE ≠ none :=
  ⟨rfl, rfl, by decide, by decide⟩

theorem witness_FaultedMachineTakesNoStep :
    State.reset.cfg.admitted = true ∧
      (raise (.decodeFailure 0x02 0x8000) State.reset).status = .faulted (.decodeFailure 0x02 0x8000) := ⟨rfl, rfl⟩

theorem witness_RunningMachineAlwaysSteps : State.reset.cfg.admitted = true ∧ State.reset.status = .running := ⟨rfl, rfl⟩

/-- A step that adds a device event, for the statements about any step. -/
theorem witness_StepAddsAtMostSixDeviceEvents :
    ∃ t, step (codeAt 0x8000 [0xAD, 0x02, 0x20]) = .next t ∧ t.history = [.read .ppu 2] ∧ t.cfg.prgLen = 0x4000 :=
  ⟨_, rfl, rfl, rfl⟩

theorem witness_ConfigurationNeverChanges : ∃ t, step (codeAt 0x8000 [0x8D, 0x00, 0x80]) = .next t := ⟨_, rfl⟩

theorem witness_FaultsArePrecise :
    (∃ t, step (codeAt 0x8000 [0x02]) = .next t ∧ t.status = .faulted (.decodeFailure 0x02 0x8000)) ∧
    (∃ t, step (codeAt 0xFFFE [0x20, 0x34, 0x00]) = .next t ∧
      t.status = .faulted (.unimplementedInstruction .jsr .absolute 0x20 0xFFFE)) := ⟨⟨_, rfl, rfl⟩, ⟨_, rfl, rfl⟩⟩

theorem witness_NoStepRaisesOperandShapeMismatch : ∃ t, step (codeAt 0x8000 [0x0A]) = .next t := ⟨_, rfl⟩

theorem witness_UnimplementedKindsFaultInTheCore :
    (Instr.sbcIndY 0x20).kind ∈ [Kind.asl, .bit, .brk, .cmp, .cpx, .cpy, .dec, .inc, .jsr, .lsr, .pha, .php, .pla, .plp,
      .rol, .ror, .rti, .rts, .sbc] ∧ State.reset.cfg.fullIsa = false := by decide

theorem witness_ExecutedInstructionsLeaveTheStatus :
    (∃ t, exec .nop State.reset = .next t ∧ (Instr.nop).kind ∉ [Kind.asl, .bit, .brk, .cmp, .cpx, .cpy, .dec, .inc, .jsr,
      .lsr, .pha, .php, .pla, .plp, .rol, .ror, .rti, .rts, .sbc]) ∧
    (∃ t, exec .brk fullReset = .next t ∧ fullReset.cfg.fullIsa = true) := ⟨⟨_, rfl, by decide⟩, ⟨_, rfl, rfl⟩⟩

theorem witness_DecodedBytesAreTheEncoding : decode [0xAD, 0x34, 0x12, 0xEA] = .ok (.ldaAbs 0x1234, [0xEA]) := rfl

/-- The boundary addresses of every clause of the map. -/
theorem witness_BusFollowsTheAddressMap :
    (∀ a ∈ [(0x0000 : Addr), 0x07FF, 0x0800, 0x1FFF], a.toNat ≤ 0x1FFF) ∧
    (∀ a ∈ [(0x2000 : Addr), 0x2007, 0x3FFF], 0x2000 ≤ a.toNat ∧ a.toNat ≤ 0x3FFF) ∧
    (∀ a ∈ [(0x4000 : Addr), 0x4013, 0x4015, 0x4017, 0x401F],
      0x4000 ≤ a.toNat ∧ a.toNat ≤ 0x401F ∧ a ≠ 0x4014 ∧ a ≠ 0x4016) ∧
    (∀ a ∈ [(0x4020 : Addr), 0x7FFF], 0x4020 ≤ a.toNat ∧ a.toNat ≤ 0x7FFF) ∧
    (∀ a ∈ [(0x8000 : Addr), 0xFFFF], 0x8000 ≤ a.toNat) := by simp

/-- No address stands under two clauses of the map. -/
theorem witness_BusClausesAreDisjoint (a : Addr) :
    [decide (a.toNat ≤ 0x1FFF), decide (0x2000 ≤ a.toNat ∧ a.toNat ≤ 0x3FFF), decide (a = 0x4016), decide (a = 0x4014),
      decide (0x4000 ≤ a.toNat ∧ a.toNat ≤ 0x401F ∧ a ≠ 0x4014 ∧ a ≠ 0x4016),
      decide (0x4020 ≤ a.toNat ∧ a.toNat ≤ 0x7FFF), decide (0x8000 ≤ a.toNat)].count true = 1 := by
  have h6 : a = 0x4016 ↔ a.toNat = 0x4016 := BitVec.toNat_inj.symm
  have h4 : a = 0x4014 ↔ a.toNat = 0x4014 := BitVec.toNat_inj.symm
  simp only [Ne, h6, h4, List.count_cons, List.count_nil, beq_iff_eq, decide_eq_true_eq]
  repeat' split
  all_goals omega

theorem witness_RamMirrorsNameTheSameByte :
    State.reset.ram.wf ∧ (0x0000 : Addr).toNat ≤ 0x1FFF ∧ (0x1FFF : Addr).toNat ≤ 0x1FFF ∧
      (0x07FF : Addr).toNat % 0x800 = (0x1FFF : Addr).toNat % 0x800 ∧
      (0x07FF : Addr).toNat % 0x800 ≠ (0x0800 : Addr).toNat % 0x800 := by decide

/-- A RAM address with other low bits, and the first address past RAM. -/
theorem witness_RamWriteChangesNoOtherRead :
    (0x1FFF : Addr).toNat ≤ 0x1FFF ∧ (0x1FFF : Addr).toNat % 0x800 ≠ (0x0000 : Addr).toNat % 0x800 ∧
      ¬ (0x2000 : Addr).toNat ≤ 0x1FFF ∧ ¬ (0xFFFF : Addr).toNat ≤ 0x1FFF := by simp

theorem witness_BusWriteChangesOnlyItsByte : ¬ sameRamByte 0x07FF 0x0800 ∧ ¬ sameRamByte 0x8000 0x8000 := by
  unfold sameRamByte; decide

theorem witness_LoadsWriteTheirRegisterAndSetZN :
    (Instr.ldaIndY 0xFF).kind = .lda ∧ (Instr.ldxZpY 0xF8).kind = .ldx ∧ (Instr.ldyAbsX 0xFFFF).kind = .ldy :=
  ⟨rfl, rfl, rfl⟩

theorem witness_StoresMakeOneBusWrite :
    (Instr.staAbsX 0x2000).kind = .sta ∧ (Instr.stxZpY 0xF0).kind = .stx ∧ (Instr.styAbs 0x0600).kind = .sty :=
  ⟨rfl, rfl, rfl⟩

theorem witness_LogicalOpsCombineIntoA :
    (Instr.andImm 0x0F).kind = .and ∧ (Instr.oraIndX 0xFF).kind = .ora ∧ (Instr.eorZp 0x10).kind = .eor := ⟨rfl, rfl, rfl⟩

theorem witness_AdcAddsWithCarry : (Instr.adcImm 0x50).kind = .adc := rfl

theorem witness_AdcOverflowIsSignedOverflow :
    ∃ t, (Instr.adcImm 0x80).kind = .adc ∧ operandOf (.adcImm 0x80) State.reset = some (0x80, State.reset) ∧
      exec (.adcImm 0x80) State.reset = .next t := ⟨_, rfl, rfl, rfl⟩

theorem witness_DecimalFlagChangesNoArithmetic :
    (∃ t, (Instr.adcImm 0x09).kind = .adc ∧ exec (.adcImm 0x09) State.reset = .next t) ∧
    (∃ t, (Instr.sbcImm 0x09).kind = .sbc ∧ exec (.sbcImm 0x09) fullReset = .next t) :=
  ⟨⟨_, rfl, rfl⟩, ⟨_, rfl, rfl⟩⟩

theorem witness_JumpSetsPcAndNopNothing : (Instr.jmpInd 0x02FF).kind = .jmp ∧ (Instr.jmpAbs 0xFFFF).kind = .jmp := ⟨rfl, rfl⟩

theorem witness_ShiftsAndRotatesUnderFullIsa :
    fullReset.cfg.fullIsa = true ∧
    (Instr.aslAcc).kind = .asl ∧ (Instr.aslAcc).mode = .accumulator ∧ (Instr.aslAbsX 0xFFFF).kind = .asl ∧
    (Instr.aslAbsX 0xFFFF).mode ≠ .accumulator ∧ (Instr.lsrAcc).kind = .lsr ∧ (Instr.rolZp 0x10).kind = .rol ∧
    (Instr.rorZpX 0x80).kind = .ror := by decide

theorem witness_MemoryIncDecAlwaysWraps :
    fullReset.cfg.fullIsa = true ∧ (Instr.incAbs 0x0200).kind = .inc ∧ (Instr.decZp 0x10).kind = .dec := ⟨rfl, rfl, rfl⟩

theorem witness_BitTestsMemoryAgainstA : fullReset.cfg.fullIsa = true ∧ (Instr.bitAbs 0x2002).kind = .bit := ⟨rfl, rfl⟩

theorem witness_ComparesSetCZN :
    fullReset.cfg.fullIsa = true ∧ (Instr.cmpIndY 0x20).kind = .cmp ∧ (Instr.cpxImm 0x06).kind = .cpx ∧
      (Instr.cpyAbs 0x1234).kind = .cpy := ⟨rfl, rfl, rfl, rfl⟩

theorem witness_SbcSubtractsWithBorrow : fullReset.cfg.fullIsa = true ∧ (Instr.sbcImm 0xF0).kind = .sbc := ⟨rfl, rfl⟩

theorem witness_SbcIsAdcOfTheComplement :
    fullReset.cfg.fullIsa = true ∧ (Instr.sbcImm 0xF0).kind = .sbc ∧ (Instr.adcImm 0x0F).kind = .adc ∧
      operandOf (.sbcImm 0xF0) fullReset = some (0xF0, fullReset) ∧
      operandOf (.adcImm 0x0F) fullReset = some (0xF0 ^^^ 0xFF, fullReset) := ⟨rfl, rfl, rfl, rfl, rfl⟩

/-- The hypothesis of the stack, JSR/RTS and BRK/RTI statements. -/
theorem witness_PushesAndPullsUseThePageOneStack : fullReset.cfg.fullIsa = true := rfl
theorem witness_JsrPushesAndRtsPulls : fullReset.cfg.fullIsa = true := rfl
theorem witness_BrkEntersAndRtiReturns : fullReset.cfg.fullIsa = true := rfl

/-- A state at the RTS that differs from the JSR's end state in A, the flags, pc and a RAM byte below the stack. -/
theorem witness_RtsUndoesJsr :
    ∃ t u, fullReset.cfg.fullIsa = true ∧ fullReset.ram.wf ∧ exec (.jsrAbs 0x9000) fullReset = .next t ∧
      u = { t with a := 0x42, pc := 0x9010, p := { t.p with n := true }, ram := t.ram.write 0x10 0x0F } ∧
      u.cfg.fullIsa = true ∧ u.sp = t.sp ∧
      u.ram.read (0x100 + fullReset.sp.toNat) = t.ram.read (0x100 + fullReset.sp.toNat) ∧
      u.ram.read (0x100 + (fullReset.sp - 1).toNat) = t.ram.read (0x100 + (fullReset.sp - 1).toNat) :=
  ⟨_, _, rfl, by decide, rfl, rfl, rfl, rfl, rfl, rfl⟩

theorem witness_RtiUndoesBrk :
    ∃ t u, fullReset.cfg.fullIsa = true ∧ fullReset.ram.wf ∧ exec .brk fullReset = .next t ∧
      u = { t with a := 0x42, pc := 0x9010, p := { t.p with n := true }, ram := t.ram.write 0x10 0x0F } ∧
      u.cfg.fullIsa = true ∧ u.sp = t.sp ∧
      u.ram.read (0x100 + fullReset.sp.toNat) = t.ram.read (0x100 + fullReset.sp.toNat) ∧
      u.ram.read (0x100 + (fullReset.sp - 1).toNat) = t.ram.read (0x100 + (fullReset.sp - 1).toNat) ∧
      u.ram.read (0x100 + (fullReset.sp - 2).toNat) = t.ram.read (0x100 + (fullReset.sp - 2).toNat) :=
  ⟨_, _, rfl, by decide, rfl, rfl, rfl, rfl, rfl, rfl, rfl⟩

theorem witness_OnlyTheListedKindsWriteA :
    ∃ t, exec (.ldxImm 0x05) State.reset = .next t ∧
      (Instr.ldxImm 0x05).kind ∉ [Kind.lda, .txa, .tya, .and, .ora, .eor, .adc, .pla, .sbc] ∧
      (Instr.ldxImm 0x05).mode ≠ .accumulator := ⟨_, rfl, by decide, by decide⟩

/-- NOP is outside every list of the X, Y, S clauses and of the flag clauses. -/
theorem witness_OnlyTheListedKindsWriteXYS :
    ∃ t, exec .nop State.reset = .next t ∧ (Instr.nop).kind ∉ [Kind.ldx, .tax, .tsx, .inx, .dex] ∧
      (Instr.nop).kind ∉ [Kind.ldy, .tay, .iny, .dey] ∧
      (Instr.nop).kind ∉ [Kind.txs, .pha, .php, .pla, .plp, .jsr, .rts, .brk, .rti] :=
  ⟨_, rfl, by decide, by decide, by decide⟩

theorem witness_OnlyTheListedKindsWriteEachFlag :
    ∃ t, exec (.staAbs 0x0200) State.reset = .next t ∧
      (Instr.staAbs 0x0200).kind ∉ [Kind.adc, .clv, .bit, .sbc, .plp, .rti] ∧
      (Instr.staAbs 0x0200).kind ∉ [Kind.cld, .sed, .plp, .rti] ∧
      (Instr.staAbs 0x0200).kind ∉ [Kind.cli, .sei, .plp, .rti, .brk] ∧
      (Instr.staAbs 0x0200).kind ∉ [Kind.clc, .sec, .adc, .asl, .lsr, .rol, .ror, .cmp, .cpx, .cpy, .sbc, .plp, .rti] ∧
      (Instr.staAbs 0x0200).kind ∉ [Kind.lda, .ldx, .ldy, .tax, .txa, .tay, .tya, .tsx, .inx, .iny, .dex, .dey, .and, .ora,
        .eor, .adc, .asl, .lsr, .rol, .ror, .inc, .dec, .cmp, .cpx, .cpy, .sbc, .pla, .bit, .plp, .rti] :=
  ⟨_, rfl, by decide, by decide, by decide, by decide, by decide⟩

theorem witness_OnlyTransfersOfControlWritePc :
    ∃ t, exec (.ldaImm 0x01) State.reset = .next t ∧
      (Instr.ldaImm 0x01).kind ∉ [Kind.bcc, .bcs, .beq, .bne, .bvc, .bvs, .bpl, .bmi, .jmp, .jsr, .rts, .brk, .rti] :=
  ⟨_, rfl, by decide⟩

/-- One instruction for each clause of the memory frame, with an address outside the bytes stored. -/
theorem witness_MemoryChangesOnlyWhereStored :
    (∃ t, exec (.cmpImm 0x01) fullReset = .next t ∧
      (Instr.cmpImm 0x01).kind ∉ [Kind.sta, .stx, .sty, .asl, .lsr, .rol, .ror, .inc, .dec, .pha, .php, .jsr, .brk]) ∧
    (∃ t, exec .rolAcc fullReset = .next t ∧ (Instr.rolAcc).mode = .accumulator) ∧
    (∃ t, exec (.staAbs 0x07FF) State.reset = .next t ∧
      addressOf (.staAbs 0x07FF) State.reset = some (0x07FF, State.reset) ∧ ¬ sameRamByte 0x07FF 0x0800) ∧
    (∃ t, exec .pha fullReset = .next t ∧ ¬ sameRamByte (stackAddr fullReset.sp) 0x0101) ∧
    (∃ t, exec (.jsrAbs 0x9000) fullReset = .next t ∧ ¬ sameRamByte (stackAddr fullReset.sp) 0x01FE ∧
      ¬ sameRamByte (stackAddr (fullReset.sp - 1)) 0x01FE) ∧
    (∃ t, exec .brk fullReset = .next t ∧ ¬ sameRamByte (stackAddr fullReset.sp) 0x01FD ∧
      ¬ sameRamByte (stackAddr (fullReset.sp - 1)) 0x01FD ∧ ¬ sameRamByte (stackAddr (fullReset.sp - 2)) 0x01FD) := by
  unfold sameRamByte
  exact ⟨⟨_, rfl, by decide⟩, ⟨_, rfl, rfl⟩, ⟨_, rfl, rfl, by decide⟩, ⟨_, rfl, by decide⟩, ⟨_, rfl, by decide, by decide⟩,
    ⟨_, rfl, by decide, by decide, by decide⟩⟩

end Sys2Proof.Tests
end

section
/-! SUPPORT. The invariant is a closed property (Laws/Closed), and so every step keeps it (O6). -/

namespace Sys2Proof.Machine

/-- The invariant speaks of RAM, the image, `P.R`, `P.B` and the run status only, and each elementary operation of the
execute phase keeps what it says of them. -/
theorem State.Inv.closed : Closed State.Inv where
  setA h := { h with }
  setX h := { h with }
  setY h := { h with }
  setSp h := { h with }
  setPc h := { h with }
  setP hr hb h := { h with reservedTrue := hr.trans h.reservedTrue, breakFalse := hb.trans h.breakFalse }
  logEvents h := { h with }
  setRam hw hb h := { h with ramCanonical := hw h.ramCanonical, ramBound := hb h.ramBound }

/-- Recording a fault other than OperandShapeMismatch keeps the invariant (R253). -/
theorem State.Inv.raise {s : State} {f : Fault} (h : s.Inv) (hf : ∀ k m, f ≠ .operandShapeMismatch k m) :
    (Machine.raise f s).Inv :=
  { h with noShapeMismatch := fun k m e => hf k m (RunStatus.faulted.inj e) }

/-- Settles O6: the invariant is closed, and the two faults a step can raise are no OperandShapeMismatch. -/
theorem stepKeepsTheInvariant : Obligations.StepKeepsTheInvariant := by
  intro s t h hs
  exact State.Inv.closed.step (fun h => h.raise nofun) (fun h => h.raise nofun) h hs

end Sys2Proof.Machine
end

section
/-! SUPPORT. Which registers and flags each kind of instruction writes (R20 to R23, R31, R38, R211): the writers of each
part of the register file as a table, and one lemma that says every instruction changes only the parts whose writers
include its kind (O53 to O56 read their fields off it). -/

namespace Sys2Proof.Machine

/-- The parts of the register file that instructions write; N and Z have the same writers (R31). -/
inductive Part where
  | a | x | y | sp | pc | nz | v | d | i | c

/-- The kinds that write a part: those of the CORE (R20 to R23, R31, R38), then those `full_isa` adds (R211). A is also
written by every Accumulator form, which `Frame` says apart. -/
def Part.writers : Part → List Kind
  | .a => [.lda, .txa, .tya, .and, .ora, .eor, .adc, .pla, .sbc]
  | .x => [.ldx, .tax, .tsx, .inx, .dex]
  | .y => [.ldy, .tay, .iny, .dey]
  | .sp => [.txs, .pha, .php, .pla, .plp, .jsr, .rts, .brk, .rti]
  | .pc => [.bcc, .bcs, .beq, .bne, .bvc, .bvs, .bpl, .bmi, .jmp, .jsr, .rts, .brk, .rti]
  | .nz => [.lda, .ldx, .ldy, .tax, .txa, .tay, .tya, .tsx, .inx, .iny, .dex, .dey, .and, .ora, .eor, .adc,
      .asl, .lsr, .rol, .ror, .inc, .dec, .cmp, .cpx, .cpy, .sbc, .pla, .bit, .plp, .rti]
  | .v => [.adc, .clv, .bit, .sbc, .plp, .rti]
  | .d => [.cld, .sed, .plp, .rti]
  | .i => [.cli, .sei, .plp, .rti, .brk]
  | .c => [.clc, .sec, .adc, .asl, .lsr, .rol, .ror, .cmp, .cpx, .cpy, .sbc, .plp, .rti]

/-- `q` differs from `p` at most in the flags that the kind writes; `P.R` and `P.B` are no kind's (R31). -/
structure StatusRegister.Frame (k : Kind) (p q : StatusRegister) : Prop where
  n : k ∉ Part.nz.writers → q.n = p.n
  z : k ∉ Part.nz.writers → q.z = p.z
  v : k ∉ Part.v.writers → q.v = p.v
  d : k ∉ Part.d.writers → q.d = p.d
  i : k ∉ Part.i.writers → q.i = p.i
  c : k ∉ Part.c.writers → q.c = p.c
  r : q.r = p.r
  b : q.b = p.b

namespace StatusRegister.Frame

variable {k : Kind} {p q r : StatusRegister} {b : Bool} {w m : Byte}

theorem refl (k : Kind) (p : StatusRegister) : Frame k p p :=
  ⟨fun _ => rfl, fun _ => rfl, fun _ => rfl, fun _ => rfl, fun _ => rfl, fun _ => rfl, rfl, rfl⟩

theorem trans (h : Frame k p q) (h' : Frame k q r) : Frame k p r where
  n hk := (h'.n hk).trans (h.n hk)
  z hk := (h'.z hk).trans (h.z hk)
  v hk := (h'.v hk).trans (h.v hk)
  d hk := (h'.d hk).trans (h.d hk)
  i hk := (h'.i hk).trans (h.i hk)
  c hk := (h'.c hk).trans (h.c hk)
  r := h'.r.trans h.r
  b := h'.b.trans h.b

theorem setN (h : Frame k p q) (hk : k ∈ Part.nz.writers := by decide) : Frame k p (q.setN b) :=
  { h with n := fun hn => absurd hk hn }

theorem setZ (h : Frame k p q) (hk : k ∈ Part.nz.writers := by decide) : Frame k p (q.setZ b) :=
  { h with z := fun hn => absurd hk hn }

theorem setV (h : Frame k p q) (hk : k ∈ Part.v.writers := by decide) : Frame k p (q.setV b) :=
  { h with v := fun hn => absurd hk hn }

theorem setD (h : Frame k p q) (hk : k ∈ Part.d.writers := by decide) : Frame k p (q.setD b) :=
  { h with d := fun hn => absurd hk hn }

theorem setI (h : Frame k p q) (hk : k ∈ Part.i.writers := by decide) : Frame k p (q.setI b) :=
  { h with i := fun hn => absurd hk hn }

theorem setC (h : Frame k p q) (hk : k ∈ Part.c.writers := by decide) : Frame k p (q.setC b) :=
  { h with c := fun hn => absurd hk hn }

theorem setZN (h : Frame k p q) (hk : k ∈ Part.nz.writers := by decide) : Frame k p (q.setZN w) :=
  (h.setZ hk).setN hk

end StatusRegister.Frame

/-- `t` differs from `s` at most in the registers and flags that the kind writes, in A if the mode is Accumulator, and in
RAM, the device history, the run status and the configuration, of which this says nothing. -/
structure State.Frame (k : Kind) (m : Mode) (s t : State) : Prop where
  a : k ∉ Part.a.writers → m ≠ .accumulator → t.a = s.a
  x : k ∉ Part.x.writers → t.x = s.x
  y : k ∉ Part.y.writers → t.y = s.y
  sp : k ∉ Part.sp.writers → t.sp = s.sp
  pc : k ∉ Part.pc.writers → t.pc = s.pc
  p : s.p.Frame k t.p

namespace State.Frame

variable {i : Instr} {k : Kind} {m : Mode} {s t u : State} {v : Byte} {w : Addr} {es : List DevEvent}

theorem refl (k : Kind) (m : Mode) (s : State) : Frame k m s s :=
  ⟨fun _ _ => rfl, fun _ => rfl, fun _ => rfl, fun _ => rfl, fun _ => rfl, .refl k s.p⟩

/-! The elementary operations. -/

theorem setA (h : Frame k m s t) (hk : k ∈ Part.a.writers := by decide) : Frame k m s (t.setA v) :=
  { h with a := fun hn => absurd hk hn }

theorem setA_accumulator (h : Frame k .accumulator s t) : Frame k .accumulator s (t.setA v) :=
  { h with a := fun _ hn => absurd rfl hn }

theorem setX (h : Frame k m s t) (hk : k ∈ Part.x.writers := by decide) : Frame k m s (t.setX v) :=
  { h with x := fun hn => absurd hk hn }

theorem setY (h : Frame k m s t) (hk : k ∈ Part.y.writers := by decide) : Frame k m s (t.setY v) :=
  { h with y := fun hn => absurd hk hn }

theorem setSp (h : Frame k m s t) (hk : k ∈ Part.sp.writers := by decide) : Frame k m s (t.setSp v) :=
  { h with sp := fun hn => absurd hk hn }

theorem setPc (h : Frame k m s t) (hk : k ∈ Part.pc.writers := by decide) : Frame k m s (t.setPc w) :=
  { h with pc := fun hn => absurd hk hn }

theorem setP {p : StatusRegister} (h : Frame k m s t) (hp : t.p.Frame k p) : Frame k m s (t.setP p) :=
  { h with p := h.p.trans hp }

theorem setZN (h : Frame k m s t) (hk : k ∈ Part.nz.writers := by decide) : Frame k m s (t.setZN v) :=
  h.setP ((StatusRegister.Frame.refl k t.p).setZN hk)

theorem setStatus {r : RunStatus} (h : Frame k m s t) : Frame k m s (t.setStatus r) := { h with }

theorem setRam {ram : Memory} (h : Frame k m s t) : Frame k m s (t.setRam ram) := { h with }

theorem logEvents (h : Frame k m s t) : Frame k m s (t.logEvents es) := { h with }

/-! The shared operations. -/

theorem busRead (w : Addr) (h : Frame k m s t) : Frame k m s (busRead w t).2 := by
  obtain ⟨es, he, -⟩ := busRead_spec w t
  rw [he]
  exact h.logEvents

theorem busWrite (h : Frame k m s t) : Frame k m s (busWrite w v t) := by
  obtain ⟨ram, es, he, -⟩ := busWrite_frame w v t
  rw [he]
  exact h.setRam.logEvents

theorem push (h : Frame k m s t) (hk : k ∈ Part.sp.writers := by decide) : Frame k m s (push v t) :=
  h.busWrite.setSp hk

theorem pull (h : Frame k m s t) (hk : k ∈ Part.sp.writers := by decide) : Frame k m s (pull t).2 :=
  (h.setSp hk).busRead _

theorem pushWord (h : Frame k m s t) (hk : k ∈ Part.sp.writers := by decide) : Frame k m s (pushWord w t) :=
  (h.push hk).push hk

theorem pullWord (h : Frame k m s t) (hk : k ∈ Part.sp.writers := by decide) : Frame k m s (pullWord t).2 :=
  (h.pull hk).pull hk

theorem branchIf {taken : Bool} (h : Frame k m s t) (hk : k ∈ Part.pc.writers := by decide) :
    Frame k m s (branchIf taken w t) := by
  rw [branchIf_eq]
  exact h.setPc hk

/-- The pulled flags are every flag but `P.R` and `P.B` (R225). -/
theorem restore (h : Frame k m s t) (hnz : k ∈ Part.nz.writers := by decide) (hv : k ∈ Part.v.writers := by decide)
    (hd : k ∈ Part.d.writers := by decide) (hi : k ∈ Part.i.writers := by decide)
    (hc : k ∈ Part.c.writers := by decide) : Frame k m s (t.setP (t.p.restore v)) :=
  h.setP (((((((StatusRegister.Frame.refl k t.p).setN hnz).setV hv).setD hd).setI hi).setZ hnz).setC hc)

theorem enterBreak (h : Frame .brk m s t) : Frame .brk m s (enterBreak t) := by
  have hp : (Machine.push (t.p.pack ||| 0x30) (Machine.pushWord (t.pc + 1) t)).p = t.p := by
    rw [pushWord_eq, push_eq]
    rfl
  rw [enterBreak_eq]
  refine (h.pushWord.push.setP ?_).setPc
  rw [hp]
  exact (StatusRegister.Frame.refl _ _).setI

theorem returnFromBreak (h : Frame .rti m s t) : Frame .rti m s (returnFromBreak t) := by
  rw [returnFromBreak_eq]
  exact h.pull.restore.pullWord.setPc

theorem modifyAt {rule : Byte → StatusRegister → Byte × StatusRegister}
    (hrule : ∀ b p, StatusRegister.Frame k p (rule b p).2) (h : Frame k m s t) : Frame k m s (modifyAt rule w t) :=
  ((h.busRead w).setP (hrule _ _)).busWrite

/-! The rule of a kind, by the operand shapes it accepts (R119). -/

theorem value {rule : Byte → State → State} (he : (Handler.value rule).effect i s t es)
    (hrule : ∀ v {u : State}, Frame k i.mode s u → Frame k i.mode s (rule v u)) : Frame k i.mode s t := by
  obtain ⟨v, rfl⟩ := he
  exact hrule v (refl k i.mode s).logEvents

theorem address {rule : Addr → State → State} (he : (Handler.address rule).effect i s t es)
    (hrule : ∀ w {u : State}, Frame k i.mode s u → Frame k i.mode s (rule w u)) : Frame k i.mode s t := by
  obtain ⟨w, -, rfl⟩ := he
  exact hrule w (refl k i.mode s).logEvents

theorem none {rule : State → State} (he : (Handler.none rule).effect i s t es)
    (hrule : ∀ {u : State}, Frame k i.mode s u → Frame k i.mode s (rule u)) : Frame k i.mode s t := by
  obtain rfl := he
  exact hrule (refl k i.mode s)

theorem modify {rule : Byte → StatusRegister → Byte × StatusRegister} (he : (Handler.modify rule).effect i s t es)
    (hrule : ∀ m p, StatusRegister.Frame k p (rule m p).2) : Frame k i.mode s t := by
  rcases he with ⟨hm, rfl⟩ | ⟨-, w, -, rfl⟩
  · rw [hm]
    exact ((refl k .accumulator s).setP (hrule _ _)).setA_accumulator
  · exact (refl k i.mode s).logEvents.modifyAt hrule

theorem modifyMemory {rule : Byte → StatusRegister → Byte × StatusRegister}
    (he : (Handler.modifyMemory rule).effect i s t es)
    (hrule : ∀ m p, StatusRegister.Frame k p (rule m p).2) : Frame k i.mode s t := by
  obtain ⟨w, -, rfl⟩ := he
  exact (refl k i.mode s).logEvents.modifyAt hrule

/-- Every kind's rule writes only what the table of writers allows it. -/
theorem of_effect (k : Kind) (he : (handlerOf k).effect i s t es) : Frame k i.mode s t := by
  have unchanged := StatusRegister.Frame.refl k
  cases k with
  | lda | and | ora | eor => exact value he fun _ _ h => h.setA.setZN
  | ldx => exact value he fun _ _ h => h.setX.setZN
  | ldy => exact value he fun _ _ h => h.setY.setZN
  | adc | sbc => exact value he fun _ _ h => (h.setP (unchanged _).setC.setV).setA.setZN
  | bit => exact value he fun _ _ h => h.setP (unchanged _).setZ.setN.setV
  | cmp | cpx | cpy => exact value he fun _ _ h => h.setP (unchanged _).setC.setZ.setN
  | sta | stx | sty => exact address he fun _ _ h => h.busWrite
  | bcc | bcs | beq | bne | bvc | bvs | bpl | bmi => exact address he fun _ _ h => h.branchIf
  | jmp => exact address he fun _ _ h => h.setPc
  | jsr => exact address he fun _ _ h => h.pushWord.setPc
  | clc | sec => exact none he fun h => h.setP (unchanged _).setC
  | cli | sei => exact none he fun h => h.setP (unchanged _).setI
  | cld | sed => exact none he fun h => h.setP (unchanged _).setD
  | clv => exact none he fun h => h.setP (unchanged _).setV
  | tax | tsx | inx | dex => exact none he fun h => h.setX.setZN
  | tay | iny | dey => exact none he fun h => h.setY.setZN
  | txa | tya => exact none he fun h => h.setA.setZN
  | txs => exact none he fun h => h.setSp
  | nop => exact none he fun h => h
  | pha | php => exact none he fun h => h.push
  | pla => exact none he fun h => h.pull.setA.setZN
  | plp => exact none he fun h => h.pull.restore
  | rts => exact none he fun h => h.pullWord.setPc
  | brk => exact none he fun h => h.enterBreak
  | rti => exact none he fun h => h.returnFromBreak
  | asl | lsr | rol | ror => exact modify he fun _ _ => (unchanged _).setC.setZN
  | inc | dec => exact modifyMemory he fun _ _ => (unchanged _).setZN

/-- Every instruction writes only what the table of writers allows its kind, whether it completes or faults. -/
theorem of_exec (h : exec i s = .next t) : Frame i.kind i.mode s t := by
  rcases exec_effect h with ⟨f, es, rfl⟩ | ⟨es, he⟩
  · exact (refl i.kind i.mode s).logEvents.setStatus
  · exact of_effect i.kind he

end State.Frame

/-- Settles O53, from the frame of every instruction. -/
theorem onlyTheListedKindsWriteA : Obligations.OnlyTheListedKindsWriteA :=
  fun _ _ _ h => (State.Frame.of_exec h).a

/-- Settles O54, from the frame of every instruction. -/
theorem onlyTheListedKindsWriteXYS : Obligations.OnlyTheListedKindsWriteXYS := by
  intro i s t h
  have hf := State.Frame.of_exec h
  exact ⟨hf.x, hf.y, hf.sp⟩

/-- Settles O55, from the frame of every instruction. -/
theorem onlyTheListedKindsWriteEachFlag : Obligations.OnlyTheListedKindsWriteEachFlag := by
  intro i s t h
  have hp := (State.Frame.of_exec h).p
  exact ⟨fun hk => ⟨hp.n hk, hp.z hk⟩, hp.v, hp.d, hp.i, hp.c, hp.r, hp.b⟩

/-- Settles O56, from the frame of every instruction. -/
theorem onlyTransfersOfControlWritePc : Obligations.OnlyTransfersOfControlWritePc :=
  fun _ _ _ h => (State.Frame.of_exec h).pc

end Sys2Proof.Machine
end

section
/-! SUPPORT. The program ROM, the configuration and the bus (20_memory.md): which image lengths are admitted (O4), that
nothing changes the configuration (O14), what every address reads and writes (O24), and what a bus write leaves unchanged
(O25, O26, O58). -/

namespace Sys2Proof.Machine

/-! ## The image length (R60) -/

theorem admitted_iff (c : Config) : c.admitted = true ↔ c.prgLen = 0x4000 ∨ 0x8000 ≤ c.prgLen := by
  simp [Config.admitted]

theorem configure_of_admitted {c : Config} (h : c.admitted = true) (ramInit : Memory) :
    configure c ramInit = .next (State.powerOn c ramInit) := by
  rw [configure, if_pos h]

theorem configure_of_not_admitted {c : Config} (h : ¬ c.admitted = true) (ramInit : Memory) :
    configure c ramInit = .refused .romLength := by
  rw [configure, if_neg h]

theorem step_of_not_admitted {s : State} (h : ¬ s.cfg.admitted = true) : step s = .refused .romLength := by
  rw [step, if_neg h]

/-- An address of the ROM window reaches one of the first 0x8000 bytes, and only one of the first 0x4000 of a 16 KB image
(R59). -/
theorem romOffset_lt {prgLen : Nat} (hl : prgLen = 0x4000 ∨ 0x8000 ≤ prgLen) {addr : Addr} (ha : 0x8000 ≤ addr.toNat) :
    romOffset prgLen addr < prgLen ∧ romOffset prgLen addr < 0x8000 := by
  have haddr := addr.isLt
  rw [romOffset_eq ha]
  rcases hl with rfl | hl
  · rw [if_pos le_rfl]
    omega
  · rw [if_neg (by omega)]
    omega

/-- Settles O4: `configure` and `step` test the length that `admitted_iff` describes, and an admitted image holds every
offset of the window. -/
theorem romLengthDecidesAdmission : Obligations.RomLengthDecidesAdmission := by
  intro c
  refine ⟨fun h1 h2 => ?_, fun h => ?_⟩
  · have hc : ¬ c.admitted = true := by
      rw [admitted_iff]
      omega
    exact ⟨configure_of_not_admitted hc, fun s hs => step_of_not_admitted (hs ▸ hc)⟩
  · exact ⟨configure_of_admitted ((admitted_iff c).2 h), fun _ => romOffset_lt h⟩

/-! ## The configuration (R66, R282) -/

/-- No elementary operation of the execute phase writes the configuration. -/
theorem cfg_closed (c : Config) : Closed (fun s => s.cfg = c) where
  setA := id
  setX := id
  setY := id
  setSp := id
  setPc := id
  setP _ _ := id
  logEvents := id
  setRam _ _ := id

@[simp] theorem busRead_cfg (addr : Addr) (s : State) : (busRead addr s).2.cfg = s.cfg :=
  (cfg_closed s.cfg).busRead addr rfl

/-- The host's reset writes registers, P and the run status, and reads the two bytes of the vector (R281, R282). -/
theorem hostReset_cfg (s : State) : (hostReset s).cfg = s.cfg := by
  simp only [hostReset, State.setStatus_cfg, State.setPc_cfg, busRead_cfg, State.setP_cfg, State.setSp_cfg,
    State.setY_cfg, State.setX_cfg, State.setA_cfg]

/-- Settles O14: the configuration is a closed property, which recording a fault keeps too. -/
theorem configurationNeverChanges : Obligations.ConfigurationNeverChanges :=
  ⟨fun s _ => (cfg_closed s.cfg).step id id rfl, hostReset_cfg⟩

/-! ## The address map (R52) -/

theorem route_pad (prgLen : Nat) : route prgLen 0x4016 = .device .pad 0 := rfl

theorem route_dma (prgLen : Nat) : route prgLen 0x4014 = .device .dma 0 := rfl

/-- A device read is a free draw over the history before it, and records itself; a device write only records itself
(R63). -/
theorem bus_device {s : State} {addr off : Addr} {dev : Device} (h : route s.cfg.prgLen addr = .device dev off)
    (v : Byte) :
    busRead addr s = (Config.devRead s.history dev off, { s with history := s.history ++ [.read dev off] }) ∧
      busWrite addr v s = { s with history := s.history ++ [.write dev off v] } := by
  simp only [busRead, busWrite, h]
  exact ⟨rfl, rfl⟩

/-- An unmapped address reads 0 and takes no write (R61). -/
theorem bus_unmapped {s : State} {addr : Addr} (h : route s.cfg.prgLen addr = .unmapped) (v : Byte) :
    busRead addr s = (0x00, s) ∧ busWrite addr v s = s := by
  simp only [busRead, busWrite, h, and_self]

/-- A write to the image is discarded (R59). -/
theorem busWrite_rom {addr : Addr} (h : 0x8000 ≤ addr.toNat) (v : Byte) (s : State) : busWrite addr v s = s := by
  simp only [busWrite, route_rom h]

/-- Settles O24: each range of the map by the target it is routed to. -/
theorem busFollowsTheAddressMap : Obligations.BusFollowsTheAddressMap := by
  intro s addr v
  refine ⟨fun h => ?ram, fun h h' => ?ppu, ?pad, ?dma, fun h h' hd hp => ?apu, fun h h' => ?unmapped, fun h => ?rom⟩
  case ram => exact ⟨busRead_ram h s, busWrite_ram h v s⟩
  case ppu => exact bus_device (route_ppu h h') v
  case pad =>
    rintro rfl
    exact bus_device (route_pad _) v
  case dma =>
    rintro rfl
    exact bus_device (route_dma _) v
  case apu => exact bus_device (route_apu h h' hd hp) v
  case unmapped => exact bus_unmapped (route_unmapped h h') v
  case rom =>
    rw [← romOffset_eq h]
    exact ⟨busRead_rom h s, busWrite_rom h v s⟩

/-! ## What a bus write leaves unchanged (R54, R64) -/

/-- The RAM cell of an address that names another byte than the one written reads what it read before (R54). -/
theorem read_write_of_other_byte {prgLen off : Nat} {addr other : Addr} (m : Memory) (v : Byte)
    (ho : route prgLen other = .ram off) (hn : other.toNat ≤ 0x1FFF → addr.toNat % 0x800 ≠ other.toNat % 0x800) :
    (m.write (addr.toNat % 0x800) v).read off = m.read off := by
  obtain ⟨hle, rfl⟩ := route_ram_inv ho
  exact Memory.read_write_other m (hn hle).symm v

/-- Settles O58: the write changes one RAM cell, and neither the history that a device draws from nor the image. -/
theorem ramWriteChangesNoOtherRead : Obligations.RamWriteChangesNoOtherRead := by
  intro s addr addr' v ha hn
  rw [busWrite_ram ha]
  simp only [busRead, State.setRam_cfg, State.setRam_ram, State.setRam_history]
  split
  · next off hr => exact read_write_of_other_byte s.ram v hr hn
  all_goals rfl

/-- Settles O25: addresses with the same low bits share one cell of canonical RAM; for the others it is O58. -/
theorem ramMirrorsNameTheSameByte : Obligations.RamMirrorsNameTheSameByte := by
  intro s addr addr' v hwf ha ha'
  refine ⟨fun hsame => ?_, fun hother => ramWriteChangesNoOtherRead s addr addr' v ha fun _ => hother⟩
  rw [busRead_ram ha', busWrite_ram ha, State.setRam_ram, ← hsame, Memory.read_write_same hwf]

/-- Settles O26: a write to RAM changes one cell, a device write the history only, and any other write nothing. -/
theorem busWriteChangesOnlyItsByte : Obligations.BusWriteChangesOnlyItsByte := by
  intro s addr other v hn
  rcases busWrite_cases addr v s with ⟨ha, h⟩ | ⟨dev, off, -, h⟩ | h
  · rw [h]
    simp only [State.peek, State.setRam_cfg, State.setRam_ram]
    split
    · next off hr =>
      rw [read_write_of_other_byte s.ram v hr fun ho he => hn ((sameRamByte_iff _ _).2 ⟨ha, ho, he⟩)]
    all_goals rfl
  · rw [h]
    exact peek_congr rfl rfl other
  · rw [h]

end Sys2Proof.Machine
end

section
/-! SUPPORT. The memory frame of every instruction (O57): the addresses each kind stores at, and one lemma that says an
instruction changes no byte of memory but those of RAM at these addresses (R71, R133, R211, R240, R242). -/

namespace Sys2Proof.Machine

/-- The addresses a kind stores at: the operand's resolved address, if it has one, for a store or a read-modify-write
(R133 to R135, R242), the stack cells for a push (R240), none for any other kind. -/
def storedAddrs (target : Option Addr) (sp : Byte) : Kind → List Addr
  | .sta | .stx | .sty | .asl | .lsr | .rol | .ror | .inc | .dec => target.toList
  | .pha | .php => [stackAddr sp]
  | .jsr => [stackAddr sp, stackAddr (sp - 1)]
  | .brk => [stackAddr sp, stackAddr (sp - 1), stackAddr (sp - 2)]
  | _ => []

/-- The resolved address of an instruction's operand, if it has one, without the state after the pointer reads. -/
def targetOf (i : Instr) (s : State) : Option Addr := (addressOf i s).map Prod.fst

theorem targetOf_of_addressOf {i : Instr} {s s1 : State} {w : Addr} (h : addressOf i s = some (w, s1)) :
    targetOf i s = some w := by
  rw [targetOf, h]
  rfl

/-- The addresses an instruction stores at in a state whose pc is past it. -/
def storesOf (i : Instr) (s : State) : List Addr := storedAddrs (targetOf i s) s.sp i.kind

/-- `t` reads as `s` at every byte of memory but the RAM bytes that the addresses `ws` name. -/
def MemoryFrame (ws : List Addr) (s t : State) : Prop :=
  ∀ other, (∀ w ∈ ws, ¬ sameRamByte w other) → t.peek other = s.peek other

namespace MemoryFrame

variable {i : Instr} {ws : List Addr} {s t u : State} {v : Byte} {w : Addr} {es : List DevEvent}

/-- Registers, flags, the run status and the device history hold no byte of memory. -/
theorem of_ram_eq (hr : t.ram = s.ram := by rfl) (hc : t.cfg = s.cfg := by rfl) : MemoryFrame ws s t :=
  fun other _ => peek_congr hr hc other

theorem trans (h : MemoryFrame ws s t) (h' : MemoryFrame ws t u) : MemoryFrame ws s u :=
  fun other hn => (h' other hn).trans (h other hn)

theorem busWrite (hw : w ∈ ws) : MemoryFrame ws s (busWrite w v s) :=
  fun other hn => busWriteChangesOnlyItsByte s w other v (hn w hw)

theorem push (hw : stackAddr s.sp ∈ ws) : MemoryFrame ws s (push v s) :=
  (busWrite hw).trans of_ram_eq

theorem pushWord (hw : stackAddr s.sp ∈ ws) (hw' : stackAddr (s.sp - 1) ∈ ws) : MemoryFrame ws s (pushWord w s) :=
  (push hw).trans (push (by rwa [push_eq]))

/-- The break entry stores at the three stack cells from S down (R214). -/
theorem enterBreak (hw : stackAddr s.sp ∈ ws) (hw' : stackAddr (s.sp - 1) ∈ ws) (hw'' : stackAddr (s.sp - 2) ∈ ws) :
    MemoryFrame ws s (enterBreak s) := by
  have hsp : (Machine.pushWord (s.pc + 1) s).sp = s.sp - 2 := by
    rw [pushWord_eq, State.setSp_sp]
    bv_omega
  rw [enterBreak_eq]
  exact ((pushWord hw hw').trans (push (by rwa [hsp]))).trans of_ram_eq

theorem pull : MemoryFrame ws s (pull s).2 := by
  rw [pull_eq]
  exact of_ram_eq

theorem pullWord : MemoryFrame ws s (pullWord s).2 := by
  rw [pullWord_eq]
  exact of_ram_eq

theorem returnFromBreak : MemoryFrame ws s (returnFromBreak s) := by
  rw [returnFromBreak_eq, pullWord_eq, pull_eq]
  exact of_ram_eq

theorem branchIf {taken : Bool} : MemoryFrame ws s (branchIf taken w s) := by
  rw [branchIf_eq]
  exact of_ram_eq

theorem modifyAt {rule : Byte → StatusRegister → Byte × StatusRegister} (hw : w ∈ ws) :
    MemoryFrame ws s (modifyAt rule w s) := by
  obtain ⟨es, v, h⟩ := modifyAt_spec rule w s
  rw [h]
  exact trans of_ram_eq (busWrite hw)

/-! The rule of a kind, by the operand shapes it accepts (R119). -/

theorem value {rule : Byte → State → State} (he : (Handler.value rule).effect i s t es)
    (hrule : ∀ v u, MemoryFrame ws u (rule v u)) : MemoryFrame ws s t := by
  obtain ⟨v, rfl⟩ := he
  exact trans of_ram_eq (hrule v _)

theorem address {rule : Addr → State → State} (he : (Handler.address rule).effect i s t es)
    (hrule : ∀ w, targetOf i s = some w → MemoryFrame ws (s.logEvents es) (rule w (s.logEvents es))) :
    MemoryFrame ws s t := by
  obtain ⟨w, hw, rfl⟩ := he
  exact trans of_ram_eq (hrule w (targetOf_of_addressOf hw))

theorem modifyMemory {rule : Byte → StatusRegister → Byte × StatusRegister}
    (he : (Handler.modifyMemory rule).effect i s t es) :
    MemoryFrame (targetOf i s).toList s t :=
  address he fun _ hw => modifyAt (Option.mem_toList.2 hw)

theorem modify {rule : Byte → StatusRegister → Byte × StatusRegister} (he : (Handler.modify rule).effect i s t es) :
    MemoryFrame (targetOf i s).toList s t := by
  rcases he with ⟨-, rfl⟩ | ⟨-, he⟩
  · exact of_ram_eq
  · exact modifyMemory he

/-- Every kind's rule stores only where the table of stores allows it. -/
theorem of_effect (k : Kind) (he : (handlerOf k).effect i s t es) :
    MemoryFrame (storedAddrs (targetOf i s) s.sp k) s t := by
  cases k with
  | lda | ldx | ldy | and | ora | eor | adc | sbc | bit | cmp | cpx | cpy => exact value he fun _ _ => of_ram_eq
  | sta | stx | sty => exact address he fun _ hw => busWrite (Option.mem_toList.2 hw)
  | bcc | bcs | beq | bne | bvc | bvs | bpl | bmi => exact address he fun _ _ => branchIf
  | jmp => exact address he fun _ _ => of_ram_eq
  | jsr => exact address he fun _ _ => (pushWord (by simp [storedAddrs]) (by simp [storedAddrs])).trans of_ram_eq
  | clc | sec | cli | sei | cld | sed | clv | tax | txa | tay | tya | tsx | txs | inx | iny | dex | dey | nop =>
    obtain rfl := he
    exact of_ram_eq
  | pha | php =>
    obtain rfl := he
    exact push (by simp [storedAddrs])
  | pla | plp =>
    obtain rfl := he
    exact pull.trans of_ram_eq
  | rts =>
    obtain rfl := he
    exact pullWord.trans of_ram_eq
  | brk =>
    obtain rfl := he
    exact enterBreak (by simp [storedAddrs]) (by simp [storedAddrs]) (by simp [storedAddrs])
  | rti =>
    obtain rfl := he
    exact returnFromBreak
  | asl | lsr | rol | ror => exact modify he
  | inc | dec => exact modifyMemory he

/-- Every instruction stores only where the table of stores allows it, whether it completes or faults. -/
theorem of_exec (h : exec i s = .next t) : MemoryFrame (storesOf i s) s t := by
  rcases exec_effect h with ⟨f, es, rfl⟩ | ⟨es, he⟩
  · exact of_ram_eq
  · exact of_effect i.kind he

end MemoryFrame

/-- A kind that is no store, no read-modify-write and no push stores nowhere. -/
theorem storedAddrs_eq_nil {k : Kind} (target : Option Addr) (sp : Byte)
    (hk : k ∉ [Kind.sta, .stx, .sty, .asl, .lsr, .rol, .ror, .inc, .dec, .pha, .php, .jsr, .brk]) :
    storedAddrs target sp k = [] := by
  cases k <;> first | rfl | (simp at hk)

/-- The kinds that store at their operand's address. -/
theorem storedAddrs_eq_target {k : Kind} (target : Option Addr) (sp : Byte)
    (hk : k ∈ [Kind.sta, .stx, .sty, .asl, .lsr, .rol, .ror, .inc, .dec]) :
    storedAddrs target sp k = target.toList := by
  fin_cases hk <;> rfl

/-- An Accumulator form resolves no address, so it stores nowhere (R242). -/
theorem storesOf_of_accumulator {i : Instr} {s : State} (hm : i.mode = .accumulator) : storesOf i s = [] := by
  cases i <;> first | rfl | (cases hm)

/-- Settles O57: each clause reads off the frame where an instruction of its kind stores. -/
theorem memoryChangesOnlyWhereStored : Obligations.MemoryChangesOnlyWhereStored := by
  intro i s t other h
  have hf := MemoryFrame.of_exec h other
  refine ⟨fun hk => ?_, fun hm => ?_, fun hk a s1 ha => ?_, fun hk hn => ?_, fun hk h0 h1 => ?_, fun hk h0 h1 h2 => ?_⟩
  · rw [storesOf, storedAddrs_eq_nil _ _ hk] at hf
    exact hf nofun
  · rw [storesOf_of_accumulator hm] at hf
    exact hf nofun
  · rw [storesOf, storedAddrs_eq_target _ _ hk, targetOf_of_addressOf ha] at hf
    exact fun hn => hf (List.forall_mem_singleton.2 hn)
  · have hs : storesOf i s = [stackAddr s.sp] := by
      rcases hk with hk | hk <;> rw [storesOf, hk] <;> rfl
    rw [hs] at hf
    exact hf (List.forall_mem_singleton.2 hn)
  · have hs : storesOf i s = [stackAddr s.sp, stackAddr (s.sp - 1)] := by
      rw [storesOf, hk]
      rfl
    simp only [hs, List.forall_mem_cons] at hf
    exact hf ⟨h0, h1, nofun⟩
  · have hs : storesOf i s = [stackAddr s.sp, stackAddr (s.sp - 1), stackAddr (s.sp - 2)] := by
      rw [storesOf, hk]
      rfl
    simp only [hs, List.forall_mem_cons] at hf
    exact hf ⟨h0, h1, h2, nofun⟩

end Sys2Proof.Machine
end

section
/-! SUPPORT. Decoding and encoding are inverse to each other (O22, O23), and the opcode map of R85 over all 256 bytes: the
counts of R88 (O20) and the undefined bytes of R86 with the fault their fetch raises (O21). -/

namespace Sys2Proof

/-! ## Decode and encode (R80, R82, R84, R89) -/

/-- What a list that decodes is: the opcode byte of some row, the operand bytes that the row takes, and the rest (R80). -/
theorem decode_cases {bs rest : List Byte} {i : Instr} (h : decode bs = .ok (i, rest)) :
    (∃ opcode, bs = opcode :: rest ∧ opcodeRow opcode = some (.op0 i)) ∨
    (∃ opcode f v, bs = opcode :: v :: rest ∧ opcodeRow opcode = some (.op1 f) ∧ f v = i) ∨
    (∃ opcode f lo hi, bs = opcode :: lo :: hi :: rest ∧ opcodeRow opcode = some (.op2 f) ∧ f (concat hi lo) = i) := by
  cases bs with
  | nil => cases h
  | cons opcode tail =>
    simp only [decode] at h
    split at h
    · cases h
    · next hr =>
      cases h
      exact .inl ⟨opcode, rfl, hr⟩
    · next f hr =>
      split at h <;> cases h
      exact .inr (.inl ⟨opcode, f, _, rfl, hr, rfl⟩)
    · next f hr =>
      split at h <;> cases h
      exact .inr (.inr ⟨opcode, f, _, _, rfl, hr, rfl⟩)

/-- Settles O22, by the shape of the row at the instruction's own opcode byte, which makes the instruction from its operand
bytes. -/
theorem decodeReadsBackEveryEncoding : Obligations.DecodeReadsBackEveryEncoding := by
  intro i rest
  have hmakes := opcodeRow_opcodeByte i
  cases hr : opcodeRow i.opcodeByte with
  | none =>
    rw [hr] at hmakes
    exact hmakes.elim
  | some row =>
    rw [hr] at hmakes
    cases row with
    | op0 j =>
      obtain ⟨rfl, hb⟩ := hmakes
      rw [encode, hb]
      exact decode_op0 hr rest
    | op1 f =>
      obtain ⟨v, hf, hb⟩ := hmakes
      rw [encode, hb, ← hf]
      exact decode_op1 (hf ▸ hr) v rest
    | op2 f =>
      obtain ⟨w, hf, hb⟩ := hmakes
      rw [encode, hb]
      have hd := decode_op2 hr (loByte w) (hiByte w) rest
      rwa [concat_hiByte_loByte, hf] at hd

/-- Settles O23, by the shape of the row that decoded the list, which is sound for its byte. -/
theorem decodedBytesAreTheEncoding : Obligations.DecodedBytesAreTheEncoding := by
  intro bs rest i h
  rcases decode_cases h with ⟨opcode, rfl, hr⟩ | ⟨opcode, f, v, rfl, hr, rfl⟩ | ⟨opcode, f, lo, hi, rfl, hr, rfl⟩
  all_goals
    have hsound := opcodeRow_sound opcode
    rw [hr] at hsound
  · obtain ⟨he, -, hw⟩ := hsound
    exact ⟨by rw [he]; rfl, hw⟩
  · obtain ⟨he, -, hw⟩ := hsound v
    exact ⟨by rw [he]; rfl, hw⟩
  · obtain ⟨he, -, hw⟩ := hsound (concat hi lo)
    exact ⟨by rw [he, loByte_concat, hiByte_concat]; rfl, hw⟩

/-- A word that is an instruction's encoding, with nothing after it, decodes to the instruction. -/
theorem decode_of_encode {bs : List Byte} {i : Instr} (h : encode i = bs) : decode bs = .ok (i, []) := by
  rw [← h, ← List.append_nil (encode i)]
  exact decodeReadsBackEveryEncoding i []

/-- Settles O19: each word is the encoding of the instruction beside it, with a little-endian operand (R67). -/
theorem wordsOfEachFamilyDecode : Obligations.WordsOfEachFamilyDecode := by
  unfold Obligations.WordsOfEachFamilyDecode
  and_intros <;> exact decode_of_encode rfl

/-! ## The opcode map over all bytes (R85, R86, R88) -/

/-- Settles O20: the map is finite, and the counts are those of its 256 bytes. -/
theorem opcodeMapHasTheStatedCounts : Obligations.OpcodeMapHasTheStatedCounts := by
  unfold Obligations.OpcodeMapHasTheStatedCounts
  decide +kernel

end Sys2Proof

namespace Sys2Proof.Machine

theorem fetchByte_fst (s : State) : (fetchByte s).1 = (busRead s.pc s).1 := rfl

/-- A byte without a table entry has no row, so no operand is fetched after it (R102). -/
theorem fetchInstr_of_undefined {s : State} (h : decodeOpcode (busRead s.pc s).1 = none) :
    fetchInstr s = (.error (busRead s.pc s).1, (fetchByte s).2) := by
  have hr : opcodeRow (busRead s.pc s).1 = none := Option.map_eq_none_iff.1 h
  simp only [fetchInstr, fetchByte_fst, hr]

/-- The step of a running machine at an undefined byte records a DecodeFailure with the byte and its address (R251). -/
theorem step_of_undefined {s : State} (ha : s.cfg.admitted = true) (hs : s.status = .running)
    (h : decodeOpcode (busRead s.pc s).1 = none) :
    step s = .next (raise (.decodeFailure (busRead s.pc s).1 s.pc) (fetchByte s).2) := by
  simp only [step, ha, hs, cycle, fetchInstr_of_undefined h, if_true]

/-- Settles O21: the map is finite, so the list is checked at each byte, and the step at an undefined byte is
`step_of_undefined`. -/
theorem undefinedBytesAreTheStatedOnes : Obligations.UndefinedBytesAreTheStatedOnes := by
  intro b
  constructor
  · revert b
    decide +kernel
  · rintro s ha hs rfl h
    exact ⟨_, step_of_undefined ha hs h, rfl⟩

end Sys2Proof.Machine
end

section
/-! SUPPORT. The step and its addressing resolver (40_step_addressing.md): what a fetch leaves (O9), the step at an
instruction (O8) and at an undefined byte (O10), the status after an executed instruction (O18), the resolver in integer
arithmetic (O27, O28) with its frame (O29), and the operand value (O30). -/

namespace Sys2Proof

/-! ## Effective addresses in integer arithmetic -/

theorem zext16_eq_ofNat (b : Byte) : zext16 b = BitVec.ofNat 16 b.toNat := (BitVec.ofNat_toNat 16 b).symm

/-- A byte sum as an address stays within page 0 (R108, R109, R113). -/
theorem zext16_add (b c : Byte) : zext16 (b + c) = BitVec.ofNat 16 ((b.toNat + c.toNat) % 256) := by
  rw [zext16_eq_ofNat, BitVec.toNat_add]

/-- A sign-extended byte is its signed value modulo 2^16 (R112). -/
theorem sext16_eq_ofInt (b : Byte) :
    sext16 b = BitVec.ofInt 16 (if 0x80 ≤ b.toNat then (b.toNat : Int) - 256 else b.toNat) := by
  have hsigned : b.toInt = if 0x80 ≤ b.toNat then (b.toNat : Int) - 256 else b.toNat := by
    rw [BitVec.toInt_eq_toNat_cond]
    split <;> split <;> omega
  rw [← hsigned]
  rfl

/-- The byte after `w`, wrapped within the page of `w` (R115). -/
theorem concat_hiByte_loByte_add_one (w : Addr) :
    concat (hiByte w) (loByte w + 1) = BitVec.ofNat 16 (w.toNat / 256 * 256 + (w.toNat + 1) % 256) := by
  have hlo : (loByte w + 1).toNat = (w.toNat + 1) % 256 := by
    rw [BitVec.toNat_add, loByte_toNat]
    exact Nat.mod_add_mod w.toNat 256 1
  rw [concat_eq_ofNat, hiByte_toNat, hlo]

end Sys2Proof

namespace Sys2Proof.Machine

theorem zeroPageIndexed_eq_ofNat (z index : Byte) :
    zeroPageIndexed z index = BitVec.ofNat 16 ((z.toNat + index.toNat) % 256) := zext16_add z index

theorem absoluteIndexed_eq_ofNat (w : Addr) (index : Byte) :
    absoluteIndexed w index = BitVec.ofNat 16 (w.toNat + index.toNat) := by
  simp only [absoluteIndexed, zext16, BitVec.ofNat_add, BitVec.ofNat_toNat, BitVec.setWidth_eq]

theorem relativeTarget_eq_ofInt (pc : Addr) (off : Byte) :
    relativeTarget pc off =
      BitVec.ofInt 16 (pc.toNat + (if 0x80 ≤ off.toNat then (off.toNat : Int) - 256 else off.toNat)) := by
  rw [relativeTarget, sext16_eq_ofInt, BitVec.ofInt_add, BitVec.ofInt_natCast, BitVec.ofNat_toNat, BitVec.setWidth_eq]

/-- Settles O27: the indexed modes and Relative by their sums in integer arithmetic. -/
theorem resolverComputesDirectModes : Obligations.ResolverComputesDirectModes := by
  intro s z w
  simp only [resolve, zext16_eq_ofNat, zeroPageIndexed_eq_ofNat, absoluteIndexed_eq_ofNat, relativeTarget_eq_ofInt,
    and_self]

/-! ## The pointers of the indirect modes -/

/-- The two reads of a pointer in page 0, low byte first (R113, R114). -/
theorem zeroPagePointer_eq (ptr : Byte) (s : State) :
    zeroPagePointer ptr s =
      let lo := busRead (BitVec.ofNat 16 ptr.toNat) s
      let hi := busRead (BitVec.ofNat 16 ((ptr.toNat + 1) % 256)) lo.2
      (concat hi.1 lo.1, hi.2) := by
  have hnext : zext16 (ptr + 1) = BitVec.ofNat 16 ((ptr.toNat + 1) % 256) := zext16_add ptr 1
  rw [← zext16_eq_ofNat, ← hnext]
  rfl

/-- The two reads of a pointer anywhere, low byte first, both in the pointer's page (R115). -/
theorem absolutePointer_eq (ptr : Addr) (s : State) :
    absolutePointer ptr s =
      let lo := busRead ptr s
      let hi := busRead (BitVec.ofNat 16 (ptr.toNat / 256 * 256 + (ptr.toNat + 1) % 256)) lo.2
      (concat hi.1 lo.1, hi.2) := by
  rw [← concat_hiByte_loByte_add_one]
  rfl

/-- The pointer reads of IndirectIndexed leave Y, so the index is the Y before them (R114). -/
theorem resolve_indirectIndexed (z : Byte) (s : State) :
    resolve (.indirectIndexed z) s =
      (.address (absoluteIndexed (zeroPagePointer z s).1 s.y), (zeroPagePointer z s).2) := by
  obtain ⟨es, he, -⟩ := zeroPagePointer_spec z s
  have hy : (zeroPagePointer z s).2.y = s.y := by rw [he, State.logEvents_y]
  rw [← hy]
  rfl

/-- Settles O28: each indirect mode by the two reads of its pointer. -/
theorem resolverFollowsPointers : Obligations.ResolverFollowsPointers := by
  intro s z w
  refine ⟨?indexedIndirect, ?indirectIndexed, ?absoluteIndirect⟩
  case indexedIndirect =>
    simp only [resolve, zeroPagePointer_eq, concat_eq_ofNat, BitVec.toNat_add, Nat.mod_add_mod]
  case indirectIndexed =>
    simp only [resolve_indirectIndexed, zeroPagePointer_eq, absoluteIndexed_eq_ofNat, concat_toNat]
  case absoluteIndirect =>
    simp only [resolve, absolutePointer_eq, concat_eq_ofNat]

/-- Settles O29, from what the resolver can do. -/
theorem resolverWritesNothing : Obligations.ResolverWritesNothing := resolve_spec

/-- Settles O30: the two clauses are those of the operand value's definition. -/
theorem operandValueIsImmediateOrOneRead : Obligations.OperandValueIsImmediateOrOneRead :=
  fun _ _ _ => ⟨rfl, rfl⟩

/-! ## The fetch -/

@[simp] theorem busRead_pc (addr : Addr) (s : State) : (busRead addr s).2.pc = s.pc := by
  obtain ⟨es, he, -⟩ := busRead_spec addr s
  rw [he, State.logEvents_pc]

/-- A bus read leaves pc, so a fetch leaves it one past the byte it read (R101). -/
theorem fetchByte_snd (s : State) : (fetchByte s).2 = (busRead s.pc s).2.setPc (s.pc + 1) := by
  simp only [fetchByte, busRead_pc]

/-- Settles O9, with the advance of pc in integer arithmetic (R26). -/
theorem fetchReadsThenAdvancesPc : Obligations.FetchReadsThenAdvancesPc := by
  intro s
  have hwrap : s.pc + 1 = BitVec.ofNat 16 ((s.pc.toNat + 1) % 2 ^ 16) := by bv_omega
  exact ⟨fetchByte_fst s, hwrap ▸ fetchByte_snd s⟩

/-- Settles O10: the step at an undefined byte, with the state that its fetch leaves. -/
theorem undefinedOpcodeRaisesDecodeFailure : Obligations.UndefinedOpcodeRaisesDecodeFailure := by
  intro s ha hs h
  rw [step_of_undefined ha hs h, fetchByte_snd]
  rfl

theorem fetchBytes_length (n : Nat) (s : State) : (fetchBytes n s).1.length = n := by
  induction n generalizing s with
  | zero => rfl
  | succ n ih => exact congrArg (· + 1) (ih (fetchByte s).2)

/-- Fetching the bytes of an instruction, and no more, is fetching the instruction (R100). -/
theorem fetchInstr_of_decode {n : Nat} {s : State} {i : Instr} (h : decode (fetchBytes n s).1 = .ok (i, [])) :
    fetchInstr s = (.ok i, (fetchBytes n s).2) := by
  rcases decode_cases h with ⟨opcode, hb, hr⟩ | ⟨opcode, f, v, hb, hr, rfl⟩ | ⟨opcode, f, lo, hi, hb, hr, rfl⟩
  all_goals
    have hn := (fetchBytes_length n s).symm
    rw [hb] at hn
    subst hn
    simp only [List.length_cons, List.length_nil, fetchBytes, List.cons.injEq] at hb ⊢
    simp only [fetchInstr, hb, hr]

theorem step_of_fetched {s s1 : State} {i : Instr} (ha : s.cfg.admitted = true) (hs : s.status = .running)
    (h : fetchInstr s = (.ok i, s1)) : step s = exec i s1 := by
  simp only [step, ha, hs, cycle, h, if_true]

/-- Settles O8: what decodes is what the cycle fetches. -/
theorem stepRunsTheDecodedInstruction : Obligations.StepRunsTheDecodedInstruction :=
  fun _ _ _ ha hs h => step_of_fetched ha hs (fetchInstr_of_decode h)

/-! ## The status after an executed instruction (R118) -/

/-- The kinds that the CORE does not implement (R210). -/
theorem implemented_eq_false_iff (k : Kind) :
    implemented k = false ↔ k ∈ [Kind.asl, .bit, .brk, .cmp, .cpx, .cpy, .dec, .inc, .jsr, .lsr, .pha, .php, .pla,
      .plp, .rol, .ror, .rti, .rts, .sbc] := by
  cases k <;> decide

/-- No elementary operation of the execute phase writes the run status. -/
theorem status_closed (r : RunStatus) : Closed (fun s => s.status = r) where
  setA := id
  setX := id
  setY := id
  setSp := id
  setPc := id
  setP _ _ := id
  logEvents := id
  setRam _ _ := id

/-- Settles O18: an instruction of these kinds runs its kind's rule, which keeps every closed property. -/
theorem executedInstructionsLeaveTheStatus : Obligations.ExecutedInstructionsLeaveTheStatus := by
  intro i s t h hk
  have hstatus := status_closed s.status
  rcases exec_cases i s with ⟨himpl, hcore, -⟩ | ⟨-, u, hrun, hu⟩
  · rcases hk with hk | hk
    · exact absurd ((implemented_eq_false_iff i.kind).1 himpl) hk
    · exact Bool.noConfusion (hcore.symm.trans hk)
  · cases h.symm.trans hu
    exact hstatus.run i.kind (hstatus.resolve rfl) hrun

end Sys2Proof.Machine
end

section
/-! SUPPORT. The rows of the opcode map by the kind they name (R85): every instruction's mode and opcode byte are a row of
its kind. -/

namespace Sys2Proof

/-- The modes of a kind, each with the byte that the map has for it, in the order of the bytes (R85). -/
def Kind.rows (k : Kind) : List (Mode × Byte) :=
  ((List.range 256).map (BitVec.ofNat 8)).filterMap fun opcode =>
    ((decodeOpcode opcode).filter (·.kind = k)).map (·.mode, opcode)

theorem Kind.mem_rows_iff {k : Kind} {m : Mode} {opcode : Byte} :
    (m, opcode) ∈ k.rows ↔ decodeOpcode opcode = some ⟨k, m⟩ := by
  simp only [Kind.rows, List.mem_filterMap, List.mem_map, List.mem_range, Option.map_eq_some_iff,
    Option.filter_eq_some_iff, decide_eq_true_eq, Prod.mk.injEq]
  constructor
  · rintro ⟨b, -, op, ⟨hd, rfl⟩, rfl, rfl⟩
    exact hd
  · intro hd
    exact ⟨opcode, ⟨opcode.toNat, opcode.isLt, BitVec.ofNat_toNat ..⟩, ⟨k, m⟩, ⟨hd, rfl⟩, rfl, rfl⟩

/-- The byte an instruction is encoded with is the byte of its kind and mode (R89 against R85). -/
theorem decodeOpcode_opcodeByte (i : Instr) : decodeOpcode i.opcodeByte = some i.op := by
  cases i <;> dsimp only [Instr.opcodeByte] <;> rfl

/-- An instruction of a kind has a mode of the kind, with the byte that stands for both in the map. -/
theorem mode_opcodeByte_mem_rows {i : Instr} {k : Kind} {rows : List (Mode × Byte)} (hk : i.kind = k)
    (hr : k.rows = rows) : (i.mode, i.opcodeByte) ∈ rows := by
  subst hk hr
  exact Kind.mem_rows_iff.2 (decodeOpcode_opcodeByte i)

end Sys2Proof
end

section
/-! SUPPORT. Loads and stores (41_load_store.md): a kind of the CORE that takes an operand value runs its rule on the state
after the operand's reads (O31), and one that stores a register makes one bus write of it, after the reads that resolve the
address (O32). -/

namespace Sys2Proof.Machine

variable {i : Instr} {k : Kind} {s : State}

/-- A kind of the CORE that takes an operand value completes by its rule. -/
theorem exec_value_of_implemented {rule : Byte → State → State} (hk : i.kind = k) (himpl : implemented k = true)
    (hh : handlerOf k = .value rule) :
    ∃ v s1, operandOf i s = some (v, s1) ∧ exec i s = .next (rule v s1) := by
  subst hk
  obtain ⟨v, es, hv, he⟩ := exec_value (s := s) (by rw [himpl, Bool.true_or]) hh
  exact ⟨v, s.logEvents es, hv, he⟩

/-- A kind of the CORE that stores a register: the device reads that resolve the address leave the register, so the byte
written is the one it had before them (R133 to R135). -/
theorem exec_store {reg : State → Byte} (hk : i.kind = k) (himpl : implemented k = true)
    (hh : handlerOf k = .address fun addr u => busWrite addr (reg u) u)
    (hreg : ∀ es, reg (s.logEvents es) = reg s) :
    ∃ addr s1, addressOf i s = some (addr, s1) ∧ exec i s = .next (busWrite addr (reg s) s1) := by
  subst hk
  obtain ⟨addr, es, ha, he⟩ := exec_address (s := s) (by rw [himpl, Bool.true_or]) hh
  rw [hreg] at he
  exact ⟨addr, s.logEvents es, ha, he⟩

/-- Settles O31: the modes and bytes are the kind's rows of the opcode map, and its rule sets the register, Z and N. -/
theorem loadsWriteTheirRegisterAndSetZN : Obligations.LoadsWriteTheirRegisterAndSetZN := by
  intro i s
  refine ⟨fun hk => ⟨mode_opcodeByte_mem_rows hk ?ldaRows, ?lda⟩, fun hk => ⟨mode_opcodeByte_mem_rows hk ?ldxRows, ?ldx⟩,
    fun hk => ⟨mode_opcodeByte_mem_rows hk ?ldyRows, ?ldy⟩⟩
  case ldaRows | ldxRows | ldyRows => decide +kernel
  case lda | ldx | ldy => exact exec_value_of_implemented hk rfl rfl

/-- Settles O32: the modes and bytes are the kind's rows of the opcode map, and its rule stores the register. -/
theorem storesMakeOneBusWrite : Obligations.StoresMakeOneBusWrite := by
  intro i s
  refine ⟨fun hk => ⟨mode_opcodeByte_mem_rows hk ?staRows, ?sta⟩, fun hk => ⟨mode_opcodeByte_mem_rows hk ?stxRows, ?stx⟩,
    fun hk => ⟨mode_opcodeByte_mem_rows hk ?styRows, ?sty⟩⟩
  case staRows | stxRows | styRows => decide +kernel
  case sta | stx | sty => exact exec_store hk rfl rfl fun _ => rfl

end Sys2Proof.Machine
end

section
/-! SUPPORT. Flag control (42_flag_control.md): a kind of the CORE that takes no operand runs its rule on the state as it is,
and the rule of each flag-control kind is one write of P (O33). -/

namespace Sys2Proof.Machine

/-- A kind of the CORE that takes no operand completes by its rule, with no bus access (R118, R119). -/
theorem exec_none_of_implemented {i : Instr} {s : State} {rule : State → State} (himpl : implemented i.kind = true)
    (hh : handlerOf i.kind = .none rule) : exec i s = .next (rule s) :=
  exec_none (by rw [himpl, Bool.true_or]) hh

/-- Settles O33: the bytes are the map's, and each kind's rule writes its literal to its flag. -/
theorem flagControlWritesOneFlag : Obligations.FlagControlWritesOneFlag := by
  intro s
  refine ⟨rfl, rfl, rfl, rfl, rfl, rfl, rfl, ?clc, ?sec, ?cli, ?sei, ?cld, ?sed, ?clv⟩
  case clc => exact exec_none_of_implemented (rule := ruleClc) rfl rfl
  case sec => exact exec_none_of_implemented (rule := ruleSec) rfl rfl
  case cli => exact exec_none_of_implemented (rule := ruleCli) rfl rfl
  case sei => exact exec_none_of_implemented (rule := ruleSei) rfl rfl
  case cld => exact exec_none_of_implemented (rule := ruleCld) rfl rfl
  case sed => exact exec_none_of_implemented (rule := ruleSed) rfl rfl
  case clv => exact exec_none_of_implemented (rule := ruleClv) rfl rfl

end Sys2Proof.Machine
end

section
/-! SUPPORT. Conditional branches (43_branches.md): a branch resolves its target with no bus access and makes at most one
write of pc (R160), so each kind differs in the condition that it tests only (O34). -/

namespace Sys2Proof.Machine

variable {i : Instr} {off : Byte} {s : State}

/-- Relative resolves to the target and leaves the state as it is (R112). -/
theorem addressOf_relative (hform : i.addressing = .relative off) :
    addressOf i s = some (relativeTarget s.pc off, s) := by
  simp only [addressOf, hform, resolve]

/-- A kind of the CORE that takes a relative address runs its rule on the target, with no bus access (R118, R119). -/
theorem exec_relative_of_implemented {rule : Addr → State → State} (hform : i.addressing = .relative off)
    (himpl : implemented i.kind = true) (hh : handlerOf i.kind = .address rule) :
    exec i s = .next (rule (relativeTarget s.pc off) s) := by
  obtain ⟨addr, es, ha, he⟩ := exec_address (s := s) (by rw [himpl, Bool.true_or]) hh
  rw [addressOf_relative hform, Option.some.injEq, Prod.mk.injEq] at ha
  obtain ⟨rfl, hs⟩ := ha
  rwa [← hs] at he

/-- The shared branch rule (R160): a kind that branches where its test of P holds sets pc to the target there, and leaves
the state as it was elsewhere. -/
theorem exec_branch {taken : StatusRegister → Bool} {cond : Prop} [Decidable cond] (hform : i.addressing = .relative off)
    (himpl : implemented i.kind = true) (hh : handlerOf i.kind = .address fun t u => branchIf (taken u.p) t u)
    (hcond : taken s.p = true ↔ cond) :
    exec i s = .next (if cond then { s with
      pc := BitVec.ofInt 16 (s.pc.toNat + (if 0x80 ≤ off.toNat then (off.toNat : Int) - 256 else off.toNat)) } else s) := by
  rw [exec_relative_of_implemented hform himpl hh, relativeTarget_eq_ofInt]
  simp only [branchIf, hcond, State.setPc]

/-- Settles O34: the bytes are the map's, and each kind is the shared branch rule on its flag with its polarity. -/
theorem branchesTestTheirFlag : Obligations.BranchesTestTheirFlag := by
  intro s off
  have hclear (flag : Bool) : (!flag) = true ↔ flag = false := (Bool.not_eq_true' flag).to_iff
  refine ⟨rfl, rfl, rfl, rfl, rfl, rfl, rfl, rfl, ?bcc, ?bcs, ?beq, ?bne, ?bvc, ?bvs, ?bpl, ?bmi⟩
  case bcc => exact exec_branch (taken := fun p => !p.c) rfl rfl rfl (hclear s.p.c)
  case bcs => exact exec_branch (taken := fun p => p.c) rfl rfl rfl .rfl
  case beq => exact exec_branch (taken := fun p => p.z) rfl rfl rfl .rfl
  case bne => exact exec_branch (taken := fun p => !p.z) rfl rfl rfl (hclear s.p.z)
  case bvc => exact exec_branch (taken := fun p => !p.v) rfl rfl rfl (hclear s.p.v)
  case bvs => exact exec_branch (taken := fun p => p.v) rfl rfl rfl .rfl
  case bpl => exact exec_branch (taken := fun p => !p.n) rfl rfl rfl (hclear s.p.n)
  case bmi => exact exec_branch (taken := fun p => p.n) rfl rfl rfl .rfl

end Sys2Proof.Machine
end

section
/-! SUPPORT. Register transfers (44_transfers.md): the rule of each transfer writes its source to its destination, and Z and N
from the same byte unless the destination is S (O35). -/

namespace Sys2Proof.Machine

/-- Settles O35: the bytes are the map's, and each kind takes no operand and completes by its rule. -/
theorem transfersCopyOneRegister : Obligations.TransfersCopyOneRegister := by
  intro s
  refine ⟨rfl, rfl, rfl, rfl, rfl, rfl, ?tax, ?txa, ?tay, ?tya, ?tsx, ?txs⟩
  case tax => exact exec_none_of_implemented (rule := ruleTax) rfl rfl
  case txa => exact exec_none_of_implemented (rule := ruleTxa) rfl rfl
  case tay => exact exec_none_of_implemented (rule := ruleTay) rfl rfl
  case tya => exact exec_none_of_implemented (rule := ruleTya) rfl rfl
  case tsx => exact exec_none_of_implemented (rule := ruleTsx) rfl rfl
  case txs => exact exec_none_of_implemented (rule := ruleTxs) rfl rfl

end Sys2Proof.Machine
end

section
/-! SUPPORT. Register increment and decrement (45_inc_dec.md): the minimum and maximum that `inc8` and `dec8` take on
integers are a test for 0xFF and 0x00 on bytes (R180), and each kind's rule steps its register and sets Z and N from the
new value (O36). -/

namespace Sys2Proof.Machine

/-- The step up, on bytes: only a saturating 0xFF stays (R180). -/
theorem inc8_eq (wrap : Bool) (v : Byte) :
    inc8 wrap v = if wrap then v + 1 else if v = 0xFF then 0xFF else v + 1 := by
  unfold inc8
  split_ifs with hwrap hv
  · bv_omega
  · subst hv
    rfl
  · have hle : v.toNat + 1 ≤ 0xFF := by bv_omega
    rw [min_eq_left hle]
    bv_omega

/-- The step down, on bytes: only a saturating 0x00 stays (R180). -/
theorem dec8_eq (wrap : Bool) (v : Byte) :
    dec8 wrap v = if wrap then v - 1 else if v = 0x00 then 0x00 else v - 1 := by
  have hstep : BitVec.ofInt 8 ((v.toNat : Int) - 1) = v - 1 := by
    rw [Int.sub_eq_add_neg, BitVec.ofInt_add, BitVec.ofInt_natCast, BitVec.ofNat_toNat, BitVec.setWidth_eq,
      BitVec.sub_eq_add_neg]
    rfl
  unfold dec8
  split_ifs with hwrap hv
  · exact hstep
  · subst hv
    rfl
  · have hle : (0 : Int) ≤ (v.toNat : Int) - 1 := by bv_omega
    rw [max_eq_left hle, hstep]

/-- Settles O36: the bytes are the map's, and each kind takes no operand and completes by its rule. -/
theorem incrementsSaturateOrWrap : Obligations.IncrementsSaturateOrWrap := by
  intro s inc dec
  have hinc : inc = inc8 s.cfg.incdecWrap := funext fun v => (inc8_eq s.cfg.incdecWrap v).symm
  have hdec : dec = dec8 s.cfg.incdecWrap := funext fun v => (dec8_eq s.cfg.incdecWrap v).symm
  rw [hinc, hdec]
  refine ⟨rfl, rfl, rfl, rfl, ?inx, ?iny, ?dex, ?dey⟩
  case inx => exact exec_none_of_implemented (rule := ruleInx) rfl rfl
  case iny => exact exec_none_of_implemented (rule := ruleIny) rfl rfl
  case dex => exact exec_none_of_implemented (rule := ruleDex) rfl rfl
  case dey => exact exec_none_of_implemented (rule := ruleDey) rfl rfl

end Sys2Proof.Machine
end

section
/-! SUPPORT. Logical operations and add-with-carry (46_logical_adc.md): AND, ORA, EOR and ADC combine A with the operand
value (O37, O38), the sum with its carry and its overflow rule in integer arithmetic (O39), and two runs that differ in D
only, through the bus, the resolver and the rules of ADC and SBC (O40). -/

namespace Sys2Proof.Machine

variable {i : Instr} {k : Kind} {s t : State}

/-! ## The logical operations (R190 to R192) -/

/-- A kind of the CORE that takes an operand value, with its rule described where it is run: on a state that differs from
the one before by device reads only. -/
theorem exec_value_after_reads {rule effect : Byte → State → State} (hk : i.kind = k) (himpl : implemented k = true)
    (hh : handlerOf k = .value rule) (hrule : ∀ m es, rule m (s.logEvents es) = effect m (s.logEvents es)) :
    ∃ m s1, operandOf i s = some (m, s1) ∧ exec i s = .next (effect m s1) := by
  subst hk
  obtain ⟨m, es, hm, he⟩ := exec_value (s := s) (by rw [himpl, Bool.true_or]) hh
  exact ⟨m, s.logEvents es, hm, by rw [he, hrule]⟩

/-- Settles O37: the modes and bytes are the kind's rows of the opcode map, and the operand's reads leave the A that its
rule combines with the operand. -/
theorem logicalOpsCombineIntoA : Obligations.LogicalOpsCombineIntoA := by
  intro i s
  refine ⟨fun hk => ⟨mode_opcodeByte_mem_rows hk ?andRows, ?and⟩, fun hk => ⟨mode_opcodeByte_mem_rows hk ?oraRows, ?ora⟩,
    fun hk => ⟨mode_opcodeByte_mem_rows hk ?eorRows, ?eor⟩⟩
  case andRows | oraRows | eorRows => decide +kernel
  case and | ora | eor => exact exec_value_after_reads hk rfl rfl fun _ _ => rfl

/-! ## Add with carry (R193, R195) -/

/-- The sign bit as the mask of R193 tests it. -/
theorem and_0x80_eq_zero_iff (b : Byte) : b &&& 0x80 = 0 ↔ b.getLsbD 7 = false := by
  rw [show (0x80 : Byte) = BitVec.twoPow 8 7 from rfl, BitVec.and_twoPow]
  cases b.getLsbD 7 <;> decide

/-- The sign bit in unsigned arithmetic. -/
theorem signBit_eq (b : Byte) : b.getLsbD 7 = decide (0x80 ≤ b.toNat) := BitVec.msb_eq_decide b

namespace StatusRegister

/-- The sum, the carry out of bit 7, and the overflow rule on sign bits, as R193 writes them. -/
theorem addWithCarry_eq (p : StatusRegister) (a m : Byte) :
    p.addWithCarry a m =
      let sum := a.toNat + m.toNat + (if p.c then 1 else 0)
      let r := BitVec.ofNat 8 sum
      (r, { p with c := decide (sum > 0xFF), v := decide ((a ^^^ m) &&& 0x80 = 0 ∧ (a ^^^ r) &&& 0x80 ≠ 0) }) := by
  simp only [addWithCarry, Bool.toNat, Bool.cond_eq_ite, and_0x80_eq_zero_iff, ne_eq, Bool.not_eq_false, Bool.decide_and,
    Bool.decide_eq_false, Bool.decide_eq_true]
  rfl

/-- The truncated sum and the carry recombine to the exact sum (R195 item 2). -/
theorem addWithCarry_recombines (p : StatusRegister) (a m : Byte) :
    (p.addWithCarry a m).1.toNat + 256 * (p.addWithCarry a m).2.c.toNat = a.toNat + m.toNat + p.c.toNat := by
  have ha := a.isLt
  have hm := m.isLt
  have hc := p.c.toNat_le
  simp only [addWithCarry, setV_c, setC_c, BitVec.toNat_ofNat]
  by_cases hsum : a.toNat + m.toNat + p.c.toNat > 0xFF
  · simp only [hsum, decide_true, Bool.toNat_true]
    omega
  · simp only [hsum, decide_false, Bool.toNat_false]
    omega

/-- V is set when the two summands have one sign and the truncated sum has the other (R193). -/
theorem addWithCarry_v_iff_signs (p : StatusRegister) (a m : Byte) :
    (p.addWithCarry a m).2.v = true ↔
      (0x80 ≤ a.toNat ↔ 0x80 ≤ m.toNat) ∧ ¬ (0x80 ≤ a.toNat ↔ 0x80 ≤ (p.addWithCarry a m).1.toNat) := by
  have hv : (p.addWithCarry a m).2.v = (!(a ^^^ m).getLsbD 7 && (a ^^^ (p.addWithCarry a m).1).getLsbD 7) := rfl
  rw [hv, Bool.and_eq_true, Bool.not_eq_true', BitVec.getLsbD_xor, BitVec.getLsbD_xor, bne_eq_false_iff_eq,
    Bool.xor_iff_ne]
  simp only [signBit_eq, ne_eq, decide_eq_decide]

/-- The rule on signs detects that the sum as two's complement lies out of range (R195 item 2). -/
theorem addWithCarry_v_iff (p : StatusRegister) (a m : Byte) :
    (p.addWithCarry a m).2.v = true ↔
      a.toInt + m.toInt + p.c.toNat < -128 ∨ 127 < a.toInt + m.toInt + p.c.toNat := by
  have ha := a.isLt
  have hm := m.isLt
  have hr := (p.addWithCarry a m).1.isLt
  have hcin := p.c.toNat_le
  have hcout := (p.addWithCarry a m).2.c.toNat_le
  have hsum := p.addWithCarry_recombines a m
  rw [addWithCarry_v_iff_signs, BitVec.toInt_eq_toNat_cond, BitVec.toInt_eq_toNat_cond]
  omega

end StatusRegister

/-- The rule of ADC as R193 writes it. -/
theorem ruleAdc_eq_sum (m : Byte) (s : State) :
    ruleAdc m s =
      let sum := s.a.toNat + m.toNat + (if s.p.c then 1 else 0)
      let r := BitVec.ofNat 8 sum
      { s with
        a := r
        p := { s.p with
          c := decide (sum > 0xFF)
          v := decide ((s.a ^^^ m) &&& 0x80 = 0 ∧ (s.a ^^^ r) &&& 0x80 ≠ 0)
          z := (r == 0x00)
          n := r.getLsbD 7 } } := by
  rw [ruleAdc_eq, StatusRegister.addWithCarry_eq]
  rfl

/-- Settles O38: the modes and bytes are the kind's rows of the opcode map, and the operand's reads leave the A and the
carry that the rule adds. -/
theorem adcAddsWithCarry : Obligations.AdcAddsWithCarry := by
  intro i s hk
  refine ⟨mode_opcodeByte_mem_rows hk ?rows, ?adc⟩
  case rows => decide +kernel
  case adc => exact exec_value_after_reads hk rfl rfl fun m es => ruleAdc_eq_sum m (s.logEvents es)

/-- Settles O39: A, C and V after ADC are those of the sum of the old A, the operand and the old carry. -/
theorem adcOverflowIsSignedOverflow : Obligations.AdcOverflowIsSignedOverflow := by
  intro i s t m s1 hk hm ht
  have hsum : t.a = (s.p.addWithCarry s.a m).1 ∧ t.p.c = (s.p.addWithCarry s.a m).2.c ∧
      t.p.v = (s.p.addWithCarry s.a m).2.v := by
    obtain ⟨m', es, hm', he⟩ := exec_value (i := i) (s := s) (rule := ruleAdc) (by rw [hk]; rfl) (by rw [hk]; rfl)
    cases hm.symm.trans hm'
    cases ht.symm.trans he
    exact ⟨rfl, rfl, rfl⟩
  obtain ⟨ha, hc, hv⟩ := hsum
  rw [ha, hc, hv]
  exact ⟨s.p.addWithCarry_recombines s.a m, s.p.addWithCarry_v_iff s.a m⟩

/-! ## The decimal flag (R194) -/

/-- `P.D <- d` on the state's P. -/
def State.setD (d : Bool) (s : State) : State := s.setP (s.p.setD d)

@[simp] theorem State.setD_cfg (d : Bool) (s : State) : (s.setD d).cfg = s.cfg := rfl

variable {d : Bool}

/-- A bus read reads the same byte and leaves the same state but for D. -/
theorem busRead_setD (w : Addr) (s : State) :
    busRead w (s.setD d) = ((busRead w s).1, (busRead w s).2.setD d) := by
  simp only [busRead, State.setD, State.setP_cfg]
  split <;> rfl

/-- No form's operand depends on D. -/
theorem resolve_setD (form : Addressing) (s : State) :
    resolve form (s.setD d) = ((resolve form s).1, (resolve form s).2.setD d) := by
  cases form with
  | indexedIndirect z | indirectIndexed z =>
    simp only [resolve, zeroPagePointer, busRead_setD]
    rfl
  | absoluteIndirect w =>
    simp only [resolve, absolutePointer, busRead_setD]
  | _ => rfl

/-- A rule on an operand value that does the same whatever D holds does so on every operand. -/
theorem Handler.run_value_setD {rule : Byte → State → State} (hrule : ∀ m u, rule m (u.setD d) = (rule m u).setD d)
    (o : Operand) (s : State) :
    (Handler.value rule).run o (s.setD d) = ((Handler.value rule).run o s).map (State.setD d) := by
  cases o with
  | address w => simp only [Handler.run, operandValue, busRead_setD, Option.map_some, hrule]
  | immediate v => simp only [Handler.run, operandValue, Option.map_some, hrule]
  | none => rfl

/-- An instruction whose rule does the same whatever D holds does so itself, whether it completes or faults. -/
theorem exec_setD {rule : Byte → State → State} (hh : handlerOf i.kind = .value rule)
    (hrule : ∀ m u, rule m (u.setD d) = (rule m u).setD d) (h : exec i s = .next t) :
    exec i (s.setD d) = .next (t.setD d) := by
  obtain ⟨u, hrun⟩ := Handler.run_of_acceptsMode (form := i.addressing) (handlerOf_acceptsMode i) s
  rw [hh] at hrun
  rw [exec_eq_execute, hh] at h ⊢
  simp only [execute, resolve_setD, Handler.run_value_setD hrule, State.setD_cfg, hrun, Option.map_some] at h ⊢
  split_ifs at h ⊢ <;> cases h <;> rfl

/-- Settles O40: neither rule reads D or writes it. -/
theorem decimalFlagChangesNoArithmetic : Obligations.DecimalFlagChangesNoArithmetic := by
  intro i s t d hk h
  rcases hk with hk | hk
  · exact exec_setD (rule := ruleAdc) (by rw [hk]; rfl) (fun _ _ => rfl) h
  · exact exec_setD (rule := ruleSbc) (by rw [hk]; rfl) (fun _ _ => rfl) h

end Sys2Proof.Machine
end

section
/-! SUPPORT. Jump and no-operation (47_jmp_nop.md): a kind of the CORE that takes an address runs its rule on the state after
the reads that resolve the address, and the rule of JMP is one write of pc there, that of NOP none (O41). -/

namespace Sys2Proof.Machine

/-- A kind of the CORE that takes an address completes by its rule (R118, R119). -/
theorem exec_address_of_implemented {i : Instr} {k : Kind} {s : State} {rule : Addr → State → State} (hk : i.kind = k)
    (himpl : implemented k = true) (hh : handlerOf k = .address rule) :
    ∃ addr s1, addressOf i s = some (addr, s1) ∧ exec i s = .next (rule addr s1) := by
  subst hk
  obtain ⟨addr, es, ha, he⟩ := exec_address (s := s) (by rw [himpl, Bool.true_or]) hh
  exact ⟨addr, s.logEvents es, ha, he⟩

/-- Settles O41: JMP's modes and bytes are its rows of the opcode map, and each kind completes by its rule. -/
theorem jumpSetsPcAndNopNothing : Obligations.JumpSetsPcAndNopNothing := by
  refine ⟨fun i s hk => ⟨mode_opcodeByte_mem_rows hk ?jmpRows, ?jmp⟩, fun s => ⟨rfl, ?nop⟩⟩
  case jmpRows => decide +kernel
  case jmp => exact exec_address_of_implemented (rule := ruleJmp) hk rfl rfl
  case nop => exact exec_none_of_implemented (rule := ruleNop) rfl rfl

end Sys2Proof.Machine
end

section
/-! SUPPORT. The exceptions of the CORE (60_exceptions.md): where the 19 kinds fault (O17), that a fault is precise (O15) and
is no OperandShapeMismatch (O16), and that a Faulted machine takes no step (O11) while a running one always does (O12). -/

namespace Sys2Proof.Machine

/-- Settles O17: of the two things an instruction can do, running its kind's rule needs `full_isa` for these kinds. -/
theorem unimplementedKindsFaultInTheCore : Obligations.UnimplementedKindsFaultInTheCore := by
  intro i s hk hcore
  rcases exec_cases i s with ⟨-, -, hfault⟩ | ⟨hruns, -⟩
  · exact hfault
  · rw [(implemented_eq_false_iff i.kind).2 hk, hcore] at hruns
    cases hruns

/-- The one fault an instruction can record in a running machine, with the state that records it: since a rule keeps the
run status, no rule has run (R118, R252). -/
theorem exec_faulted {i : Instr} {s t : State} {f : Fault} (h : exec i s = .next t) (hs : s.status = .running)
    (hf : t.status = .faulted f) :
    f = .unimplementedInstruction i.kind i.mode i.opcodeByte (s.pc - BitVec.ofNat 16 i.length) ∧
      t = raise f (resolve i.addressing s).2 := by
  rcases exec_cases i s with ⟨-, -, hfault⟩ | ⟨-, u, hrun, hu⟩
  · cases h.symm.trans hfault
    cases hf
    exact ⟨rfl, rfl⟩
  · cases h.symm.trans hu
    have hkept := (status_closed .running).run i.kind ((status_closed .running).resolve hs) hrun
    cases hf.symm.trans hkept

/-- Settles O15: the fetch advances pc and reads, the fault of an undefined byte comes right after it, and that of an
instruction after the reads of its resolver. -/
theorem faultsArePrecise : Obligations.FaultsArePrecise := by
  intro s t f h hf
  obtain ⟨-, hs, hc⟩ := step_next h
  obtain ⟨es, n, hs1, -, hes, hn⟩ := fetchInstr_spec s
  rcases cycle_cases s with ⟨opcode, s1, hfetch, hcycle⟩ | ⟨i, s1, hfetch, hcycle⟩
  all_goals
    rw [hfetch] at hs1 hn
    simp only at hs1
    subst hs1
  · cases hc.symm.trans hcycle
    cases hf
    rcases hn with ⟨-, -, -, hn⟩ | ⟨_, hok, -⟩
    · exact ⟨es, n, rfl, hes, .inl ⟨opcode, rfl, hn⟩⟩
    · cases hok
  · obtain ⟨hfault, ht⟩ := exec_faulted (hcycle.symm.trans hc) hs hf
    obtain ⟨fs, hresolve, -, hfs⟩ := resolve_spec i.addressing ((s.logEvents es).setPc (s.pc + BitVec.ofNat 16 n))
    rcases hn with ⟨_, herror, -⟩ | ⟨_, hok, hn, -⟩
    · cases herror
    · cases hok
      refine ⟨es ++ fs, n, ?state, hes.append hfs, .inr ⟨i.kind, i.mode, i.opcodeByte, ?fault, hn⟩⟩
      case state =>
        rw [ht, hresolve, ← List.append_assoc]
        rfl
      case fault => rw [hfault, State.setPc_pc, ← hn, BitVec.add_sub_cancel]

/-- Settles O16: the fault that a step records is one of the two of O15. -/
theorem noStepRaisesOperandShapeMismatch : Obligations.NoStepRaisesOperandShapeMismatch := by
  intro s t h k m hf
  obtain ⟨es, n, -, -, ⟨opcode, hfault, -⟩ | ⟨k', m', opcode, hfault, -⟩⟩ := faultsArePrecise s t _ h hf
  all_goals cases hfault

/-- Settles O11: the step looks at the status before it fetches, and the reset ends with a write of it. -/
theorem faultedMachineTakesNoStep : Obligations.FaultedMachineTakesNoStep := by
  intro s f ha hf
  refine ⟨?step, fun stop hended => ?ended, rfl⟩
  case step => simp only [step, ha, hf, if_true]
  case ended => cases hf.symm.trans hended.1

/-- The step of a running machine with an admitted image is its cycle (R100). -/
theorem step_eq_cycle {s : State} (ha : s.cfg.admitted = true) (hs : s.status = .running) : step s = cycle s := by
  simp only [step, ha, hs, if_true]

/-- Settles O12: a cycle records a fault in a next state, or executes an instruction, which gives one. -/
theorem runningMachineAlwaysSteps : Obligations.RunningMachineAlwaysSteps := by
  intro s ha hs
  rw [step_eq_cycle ha hs]
  rcases cycle_cases s with ⟨opcode, s1, -, hcycle⟩ | ⟨i, s1, -, hcycle⟩
  · exact ⟨_, hcycle⟩
  · rw [hcycle]
    exact exec_next i s1

end Sys2Proof.Machine
end

section
/-! SUPPORT. Reset, power-on and the host's moves (70_reset_and_hazards.md section 1): the state that the reset gives (O1,
O2), the power-on state (O3), and the invariant of both (O5) and of every state that the host can reach (O7). -/

namespace Sys2Proof.Machine

/-- The state after the host's reset; its two reads of the vector are of the image and draw nothing (R281, R59). -/
theorem hostReset_eq (s : State) :
    hostReset s =
      { s with
        a := 0x00, x := 0x00, y := 0x00, sp := 0x00
        p := { n := false, v := false, r := true, b := false, d := false, i := false, z := false, c := false }
        pc := s.cfg.resetVector
        status := .running } := by
  simp only [hostReset]
  rw [busRead_rom (by decide), busRead_rom (by decide), StatusRegister.reset_eq]
  rfl

/-- A 16 KB image stands twice in the window, so the vector is its last but one pair of bytes (R59, R281). -/
theorem resetVector_of_16k {c : Config} (h : c.prgLen = 0x4000) :
    c.resetVector = concat (c.prg.read 0x3FFD) (c.prg.read 0x3FFC) := by
  rw [Config.resetVector, Config.romRead, Config.romRead, romOffset_eq (by decide), romOffset_eq (by decide), h]
  rfl

/-- An image that fills the window is not mirrored (R59, R281). -/
theorem resetVector_of_32k {c : Config} (h : 0x8000 ≤ c.prgLen) :
    c.resetVector = concat (c.prg.read 0x7FFD) (c.prg.read 0x7FFC) := by
  have hlen : ¬ c.prgLen ≤ 0x4000 := by omega
  rw [Config.resetVector, Config.romRead, Config.romRead, romOffset_eq (by decide), romOffset_eq (by decide),
    if_neg hlen, if_neg hlen]
  rfl

/-- Settles O1: the vector's two bytes are image bytes, at the offsets of the two classes of lengths. -/
theorem resetZeroesRegistersAndLoadsVector : Obligations.ResetZeroesRegistersAndLoadsVector := by
  intro s
  have hlo : busRead 0xFFFC s = (s.cfg.romRead 0xFFFC, s) := busRead_rom (by decide) s
  have hhi : busRead 0xFFFD s = (s.cfg.romRead 0xFFFD, s) := busRead_rom (by decide) s
  rw [hostReset_eq, hlo, hhi]
  exact ⟨rfl, rfl, rfl, resetVector_of_16k, resetVector_of_32k⟩

/-- Settles O2: the first reset keeps the image, from which the second loads the same vector. -/
theorem resetTwiceIsResetOnce : Obligations.ResetTwiceIsResetOnce := by
  intro s
  simp only [hostReset_eq]

/-- Settles O3: an admitted configuration gives the power-on state, whose fields are written out. -/
theorem powerOnZeroesTheRegisterFile : Obligations.PowerOnZeroesTheRegisterFile := by
  intro c ramInit h
  exact ⟨_, configure_of_admitted h ramInit, rfl, rfl, rfl, rfl, rfl, rfl, rfl, rfl, rfl, rfl⟩

/-! ## The invariant at the host's moves (R269, R286) -/

/-- Power-on meets the invariant where the arrays it is given are canonical and within their bounds. -/
theorem State.Inv.powerOn {c : Config} {ramInit : Memory} (hprg : c.prg.wf) (hprgBound : c.prg.below c.prgLen)
    (hram : ramInit.wf) (hramBound : ramInit.below 0x800) : (State.powerOn c ramInit).Inv where
  ramCanonical := hram
  ramBound := hramBound
  prgCanonical := hprg
  prgBound := hprgBound
  reservedTrue := rfl
  breakFalse := rfl
  noShapeMismatch := nofun

/-- The reset writes neither array, sets `P.R`, clears `P.B` and leaves the status Running. -/
theorem State.Inv.hostReset {s : State} (h : s.Inv) : (hostReset s).Inv := by
  rw [hostReset_eq]
  exact { h with reservedTrue := rfl, breakFalse := rfl, noShapeMismatch := nofun }

/-- Settles O5: the state after reset is that of the host's reset, which keeps the invariant of power-on. -/
theorem resetStateMeetsTheInvariant : Obligations.ResetStateMeetsTheInvariant := by
  have heq : State.reset = hostReset (State.powerOn Config.default []) := by
    rw [hostReset_eq]
    rfl
  have hpowerOn : (State.powerOn Config.default []).Inv :=
    .powerOn (by decide) (by decide) (by decide) (by decide)
  exact ⟨heq ▸ hpowerOn.hostReset, heq⟩

/-- Only an admitted configuration has a power-on state (R60, R280). -/
theorem configure_next {c : Config} {ramInit : Memory} {s : State} (h : configure c ramInit = .next s) :
    s = State.powerOn c ramInit := by
  unfold configure at h
  split at h <;> cases h
  rfl

/-- Settles O7, by induction on the host's moves: power-on meets the invariant, and each reset and each step keeps it. -/
theorem reachableStatesMeetTheInvariant : Obligations.ReachableStatesMeetTheInvariant := by
  intro c ramInit s hprg hprgBound hram hramBound hs
  induction hs with
  | configured h =>
    rw [configure_next h]
    exact .powerOn hprg hprgBound hram hramBound
  | @called s t call _ h ih =>
    cases call with
    | reset =>
      cases h
      exact ih.hostReset
    | step => exact stepKeepsTheInvariant s t ih h

end Sys2Proof.Machine
end

section
/-! SUPPORT. The device events of a step (R63, R289): how many accesses each shape of operand makes besides the pointer reads
of its resolver, and that a read-modify-write form, which makes the most, has no pointer (O13). -/

namespace Sys2Proof.Machine

/-- `t` has the device history of `s` and at most `n` events after it. -/
def AddsEvents (n : Nat) (s t : State) : Prop := ∃ es, t.history = s.history ++ es ∧ es.length ≤ n

namespace AddsEvents

variable {m n : Nat} {s t u : State} {es : List DevEvent} {w : Addr} {v : Byte} {o : Operand}

theorem of_history_eq (h : t.history = s.history := by rfl) : AddsEvents n s t :=
  ⟨[], by rw [h, List.append_nil], Nat.zero_le n⟩

theorem congr_history (h : AddsEvents n s t) (hu : u.history = t.history := by rfl) : AddsEvents n s u := by
  obtain ⟨es, ht, hes⟩ := h
  exact ⟨es, hu.trans ht, hes⟩

theorem trans (h : AddsEvents m s t) (h' : AddsEvents n t u) : AddsEvents (m + n) s u := by
  obtain ⟨es, ht, hes⟩ := h
  obtain ⟨fs, hu, hfs⟩ := h'
  exact ⟨es ++ fs, by rw [hu, ht, List.append_assoc], by rw [List.length_append]; omega⟩

theorem mono (h : AddsEvents m s t) (hmn : m ≤ n) : AddsEvents n s t := by
  obtain ⟨es, ht, hes⟩ := h
  exact ⟨es, ht, hes.trans hmn⟩

theorem logEvents (h : es.length ≤ n) : AddsEvents n s (s.logEvents es) := ⟨es, rfl, h⟩

theorem busRead (w : Addr) (s : State) : AddsEvents 1 s (busRead w s).2 := by
  obtain ⟨es, he, hes, -⟩ := busRead_spec w s
  rw [he]
  exact logEvents hes

theorem busWrite : AddsEvents 1 s (busWrite w v s) := by
  obtain ⟨ram, es, he, hes, -⟩ := busWrite_frame w v s
  rw [he]
  exact logEvents hes

/-- One read, then one write (R242). -/
theorem modifyAt {rule : Byte → StatusRegister → Byte × StatusRegister} : AddsEvents 2 s (modifyAt rule w s) :=
  ((busRead w s).congr_history).trans busWrite

/-! The rule of a kind, by the operand shapes it accepts (R119). -/

theorem value {rule : Byte → State → State} (hr : (Handler.value rule).run o s = some t)
    (hrule : ∀ v u, (rule v u).history = u.history) : AddsEvents 1 s t := by
  simp only [Handler.run, Option.map_eq_some_iff] at hr
  obtain ⟨⟨v, s1⟩, hv, rfl⟩ := hr
  obtain ⟨es, rfl, hes, -⟩ := operandValue_spec hv
  exact (logEvents hes).congr_history (hrule v _)

theorem address {rule : Addr → State → State} (hr : (Handler.address rule).run o s = some t)
    (hrule : ∀ w, AddsEvents 1 s (rule w s)) : AddsEvents 1 s t := by
  cases o <;> cases hr
  exact hrule _

theorem none {rule : State → State} (hr : (Handler.none rule).run o s = some t)
    (hrule : (rule s).history = s.history) : AddsEvents n s t := by
  cases o <;> cases hr
  exact of_history_eq hrule

theorem modify {rule : Byte → StatusRegister → Byte × StatusRegister} (hr : (Handler.modify rule).run o s = some t) :
    AddsEvents 2 s t := by
  cases o <;> cases hr
  · exact modifyAt
  · exact of_history_eq

theorem modifyMemory {rule : Byte → StatusRegister → Byte × StatusRegister}
    (hr : (Handler.modifyMemory rule).run o s = some t) : AddsEvents 2 s t := by
  cases o <;> cases hr
  exact modifyAt

end AddsEvents

/-! A branch, the stack, the break entry and its return touch no device (R160, R240, R260, R261). -/

theorem branchIf_history (taken : Bool) (w : Addr) (s : State) : (branchIf taken w s).history = s.history := by
  rw [branchIf_eq]
  rfl

theorem push_history (v : Byte) (s : State) : (push v s).history = s.history := by
  rw [push_eq]
  rfl

theorem pull_history (s : State) : (pull s).2.history = s.history := by
  rw [pull_eq]
  rfl

theorem pushWord_history (w : Addr) (s : State) : (pushWord w s).history = s.history := by
  rw [pushWord_eq]
  rfl

theorem pullWord_history (s : State) : (pullWord s).2.history = s.history := by
  rw [pullWord_eq]
  rfl

theorem enterBreak_history (s : State) : (enterBreak s).history = s.history := by
  rw [enterBreak_eq, State.setPc_history, State.setP_history, push_history, pushWord_history]

theorem returnFromBreak_history (s : State) : (returnFromBreak s).history = s.history := by
  rw [returnFromBreak_eq, State.setPc_history, pullWord_history, State.setP_history, pull_history]

/-- The most device accesses a rule makes, the read of its operand value included: one for an operand, two for a
read-modify-write (R120, R242). -/
def Handler.accesses : Handler → Nat
  | .value _ => 1
  | .address _ => 1
  | .none _ => 0
  | .modify _ => 2
  | .modifyMemory _ => 2

theorem Handler.accesses_le_two (h : Handler) : h.accesses ≤ 2 := by
  cases h <;> simp [accesses]

/-- Every kind's rule makes no more device accesses than its operand shapes allow. -/
theorem AddsEvents.of_run (k : Kind) {o : Operand} {s t : State} (hr : (handlerOf k).run o s = some t) :
    AddsEvents (handlerOf k).accesses s t := by
  cases k with
  | lda | ldx | ldy | and | ora | eor | adc | sbc | bit | cmp | cpx | cpy => exact value hr fun _ _ => rfl
  | sta | stx | sty => exact address hr fun _ => busWrite
  | bcc | bcs | beq | bne | bvc | bvs | bpl | bmi =>
    exact address hr fun _ => of_history_eq (branchIf_history _ _ s)
  | jmp => exact address hr fun _ => of_history_eq
  | jsr => exact address hr fun _ => of_history_eq (pushWord_history _ s)
  | clc | sec | cli | sei | cld | sed | clv | tax | txa | tay | tya | tsx | txs | inx | iny | dex | dey | nop =>
    exact none hr rfl
  | pha | php => exact none hr (push_history _ s)
  | pla | plp => exact none hr (pull_history s)
  | rts => exact none hr (pullWord_history s)
  | brk => exact none hr (enterBreak_history s)
  | rti => exact none hr (returnFromBreak_history s)
  | asl | lsr | rol | ror => exact modify hr
  | inc | dec => exact modifyMemory hr

/-- No read-modify-write form is indirect (R85), so its resolver reads nothing. -/
theorem resolve_of_two_accesses {i : Instr} (h : (handlerOf i.kind).accesses = 2) (s : State) :
    (resolve i.addressing s).2 = s := by
  cases i <;> cases h <;> rfl

/-- An instruction makes at most three device accesses: the resolver's two reads and one more, or the two of a
read-modify-write. -/
theorem AddsEvents.of_exec {i : Instr} {s t : State} (h : exec i s = .next t) : AddsEvents 3 s t := by
  obtain ⟨es, hresolve, hes, -⟩ := resolve_spec i.addressing s
  have hpointer : AddsEvents 2 s (resolve i.addressing s).2 := by
    rw [hresolve]
    exact logEvents hes
  rcases exec_cases i s with ⟨-, -, hfault⟩ | ⟨-, u, hrun, hu⟩
  · cases h.symm.trans hfault
    exact hpointer.congr_history.mono (by decide)
  · cases h.symm.trans hu
    have hrule := of_run i.kind hrun
    by_cases htwo : (handlerOf i.kind).accesses = 2
    · rw [htwo, resolve_of_two_accesses htwo] at hrule
      exact hrule.mono (by decide)
    · have hle := (handlerOf i.kind).accesses_le_two
      have hone : (handlerOf i.kind).accesses ≤ 1 := by omega
      exact hpointer.trans (hrule.mono hone)

/-- Settles O13: the fetch reads at most three bytes, and the instruction makes at most three device accesses. -/
theorem stepAddsAtMostSixDeviceEvents : Obligations.StepAddsAtMostSixDeviceEvents := by
  intro s t h
  obtain ⟨-, -, hc⟩ := step_next h
  obtain ⟨es, n, hfetch, hes, -, hn⟩ := fetchInstr_spec s
  have hn3 : n ≤ 3 := by
    rcases hn with ⟨_, -, -, hn⟩ | ⟨_, -, -, hn⟩ <;> omega
  have hbytes : AddsEvents 3 s (fetchInstr s).2 := by
    rw [hfetch]
    exact ⟨es, rfl, hes.trans hn3⟩
  rcases cycle_cases s with ⟨opcode, s1, he, hcycle⟩ | ⟨i, s1, he, hcycle⟩
  all_goals rw [he] at hbytes
  · cases hc.symm.trans hcycle
    exact hbytes.congr_history.mono (by decide)
  · exact hbytes.trans (.of_exec (hcycle.symm.trans hc))

end Sys2Proof.Machine
end

section
/-! SUPPORT. The kinds that `full_isa` adds and that do not use the stack (48_unimplemented.md section 3): BIT, the compares
and SBC run their rule on the state after the operand's reads (O44 to O46), SBC is ADC of the complement (O47), and a shift,
a rotate, INC and DEC make one read and one write at the resolved address, or replace A (O42, O43). -/

namespace Sys2Proof.Machine

variable {i : Instr} {k : Kind} {s : State}

/-- Under `full_isa` every kind runs its rule (R210). -/
theorem runs_of_fullIsa (hfull : s.cfg.fullIsa = true) (k : Kind) : (implemented k || s.cfg.fullIsa) = true := by
  rw [hfull, Bool.or_true]

/-! ## BIT, the compares and SBC (R213, R230, R243) -/

/-- Under `full_isa` a kind that takes an operand value runs its rule, described where it is run: on a state that differs
from the one before by device reads only. -/
theorem exec_value_of_fullIsa {rule effect : Byte → State → State} (hfull : s.cfg.fullIsa = true) (hk : i.kind = k)
    (hh : handlerOf k = .value rule) (hrule : ∀ m es, rule m (s.logEvents es) = effect m (s.logEvents es)) :
    ∃ m s1, operandOf i s = some (m, s1) ∧ exec i s = .next (effect m s1) := by
  subst hk
  obtain ⟨m, es, hm, he⟩ := exec_value (runs_of_fullIsa hfull i.kind) hh
  exact ⟨m, s.logEvents es, hm, by rw [he, hrule]⟩

/-- Settles O44: the modes and bytes are the kind's rows of the opcode map, and the operand's reads leave the A that the
rule tests. -/
theorem bitTestsMemoryAgainstA : Obligations.BitTestsMemoryAgainstA := by
  intro i s hfull hk
  refine ⟨mode_opcodeByte_mem_rows hk ?rows, ?bit⟩
  case rows => decide +kernel
  case bit => exact exec_value_of_fullIsa hfull hk rfl fun _ _ => rfl

/-- Settles O45: the modes and bytes are the kind's rows of the opcode map, and the operand's reads leave the register that
the rule compares. -/
theorem comparesSetCZN : Obligations.ComparesSetCZN := by
  intro i s hfull hkind
  refine ⟨fun hk => mode_opcodeByte_mem_rows hk ?cmpRows, fun hk => mode_opcodeByte_mem_rows hk ?cpxRows,
    fun hk => mode_opcodeByte_mem_rows hk ?cpyRows, ?compare⟩
  case cmpRows | cpxRows | cpyRows => decide +kernel
  case compare =>
    rcases hkind with hk | hk | hk
    all_goals
      rw [hk]
      exact exec_value_of_fullIsa hfull hk rfl fun _ _ => rfl

/-- The difference, the borrow as a clear carry, and the overflow rule on sign bits, as R230 writes them. -/
theorem StatusRegister.subWithBorrow_eq (p : StatusRegister) (a m : Byte) :
    p.subWithBorrow a m =
      let diff : Int := a.toNat - m.toNat - (if p.c then 0 else 1)
      let r := BitVec.ofInt 8 diff
      (r, { p with c := decide (diff ≥ 0), v := decide ((a ^^^ m) &&& 0x80 ≠ 0 ∧ (a ^^^ r) &&& 0x80 ≠ 0) }) := by
  simp only [subWithBorrow, and_0x80_eq_zero_iff, ne_eq, Bool.not_eq_false, Bool.decide_and, Bool.decide_eq_true]
  rfl

/-- The rule of SBC as R230 writes it. -/
theorem ruleSbc_eq_difference (m : Byte) (s : State) :
    ruleSbc m s =
      let diff : Int := s.a.toNat - m.toNat - (if s.p.c then 0 else 1)
      let r := BitVec.ofInt 8 diff
      { s with
        a := r
        p := { s.p with
          c := decide (diff ≥ 0)
          v := decide ((s.a ^^^ m) &&& 0x80 ≠ 0 ∧ (s.a ^^^ r) &&& 0x80 ≠ 0)
          z := (r == 0x00)
          n := r.getLsbD 7 } } := by
  rw [ruleSbc_eq, StatusRegister.subWithBorrow_eq]
  rfl

/-- Settles O46: the modes and bytes are the kind's rows of the opcode map, and the operand's reads leave the A and the
carry that the rule subtracts with. -/
theorem sbcSubtractsWithBorrow : Obligations.SbcSubtractsWithBorrow := by
  intro i s hfull hk
  refine ⟨mode_opcodeByte_mem_rows hk ?rows, ?sbc⟩
  case rows => decide +kernel
  case sbc => exact exec_value_of_fullIsa hfull hk rfl fun m es => ruleSbc_eq_difference m (s.logEvents es)

/-! ## SBC as ADC of the complement (R230) -/

theorem complement_toNat (m : Byte) : (m ^^^ 0xFF).toNat = 255 - m.toNat := by
  have hnot : m ^^^ 0xFF = ~~~m := BitVec.xor_allOnes
  rw [hnot, BitVec.toNat_not]

/-- Subtraction with borrow is addition of the complement: the sum is the difference plus 0x100, so the truncated results
are equal, and the sum carries where the difference does not borrow (R230). -/
theorem StatusRegister.subWithBorrow_eq_addWithCarry (p : StatusRegister) (a m : Byte) :
    p.subWithBorrow a m = p.addWithCarry a (m ^^^ 0xFF) := by
  have hm := m.isLt
  have hsum : ((a.toNat + (m ^^^ 0xFF).toNat + p.c.toNat : Nat) : Int) =
      (a.toNat - m.toNat - (if p.c then 0 else 1) : Int) + 256 := by
    rw [complement_toNat]
    cases p.c <;> simp <;> omega
  have hresult : BitVec.ofInt 8 (a.toNat - m.toNat - (if p.c then 0 else 1)) =
      BitVec.ofNat 8 (a.toNat + (m ^^^ 0xFF).toNat + p.c.toNat) := by
    rw [← BitVec.ofInt_natCast, hsum, BitVec.ofInt_add]
    exact (BitVec.add_zero _).symm
  have hcarry : decide ((a.toNat - m.toNat - (if p.c then 0 else 1) : Int) ≥ 0) =
      decide (a.toNat + (m ^^^ 0xFF).toNat + p.c.toNat > 0xFF) := by
    rw [decide_eq_decide]
    omega
  have hsigns : (a ^^^ m).getLsbD 7 = !(a ^^^ (m ^^^ 0xFF)).getLsbD 7 := by
    simp only [BitVec.getLsbD_xor]
    cases a.getLsbD 7 <;> cases m.getLsbD 7 <;> rfl
  simp only [subWithBorrow, addWithCarry, hresult, hcarry, hsigns]

/-- Settles O47: both instructions run on the state after the same reads, where the two rules agree. -/
theorem sbcIsAdcOfTheComplement : Obligations.SbcIsAdcOfTheComplement := by
  intro i j s s1 m hfull hi hj hmi hmj
  obtain ⟨mi, es, hmi', hsbc⟩ := exec_value (rule := ruleSbc) (runs_of_fullIsa hfull i.kind) (by rw [hi]; rfl)
  obtain ⟨mj, fs, hmj', hadc⟩ := exec_value (rule := ruleAdc) (runs_of_fullIsa hfull j.kind) (by rw [hj]; rfl)
  have hrules (u : State) : ruleSbc m u = ruleAdc (m ^^^ 0xFF) u := by
    rw [ruleSbc_eq, ruleAdc_eq, StatusRegister.subWithBorrow_eq_addWithCarry]
  cases hmi.symm.trans hmi'
  rw [hmj, Option.some.injEq, Prod.mk.injEq] at hmj'
  obtain ⟨rfl, hstate⟩ := hmj'
  rw [hsbc, hadc, hrules, hstate]

/-! ## Read-modify-write (R242) -/

@[simp] theorem busRead_p (addr : Addr) (s : State) : (busRead addr s).2.p = s.p := by
  obtain ⟨es, he, -⟩ := busRead_spec addr s
  rw [he, State.logEvents_p]

/-- The read leaves P, so the rule gets the P from before it. -/
theorem modifyAt_eq (rule : Byte → StatusRegister → Byte × StatusRegister) (addr : Addr) (s : State) :
    modifyAt rule addr s =
      let m := busRead addr s
      busWrite addr (rule m.1 s.p).1 (m.2.setP (rule m.1 s.p).2) := by
  simp only [modifyAt, busRead_p]

/-- What the four shift and rotate kinds have in common: C is the bit shifted out, and Z and N come from the result. -/
def shiftRule (shift : Byte → Bool → Byte) (out : Nat) (m : Byte) (p : StatusRegister) : Byte × StatusRegister :=
  (shift m p.c, (p.setC (m.getLsbD out)).setZN (shift m p.c))

theorem ruleAsl_eq : ruleAsl = shiftRule (fun m _ => BitVec.ofNat 8 (m.toNat * 2)) 7 := by
  funext m p
  have hshift : m <<< 1 = BitVec.ofNat 8 (m.toNat * 2) := by bv_omega
  simp only [ruleAsl, shiftRule, hshift]

theorem ruleLsr_eq : ruleLsr = shiftRule (fun m _ => BitVec.ofNat 8 (m.toNat / 2)) 0 := by
  funext m p
  have hshift : m >>> 1 = BitVec.ofNat 8 (m.toNat / 2) := by bv_omega
  simp only [ruleLsr, shiftRule, hshift]

theorem ruleRol_eq : ruleRol = shiftRule (fun m c => BitVec.ofNat 8 (m.toNat * 2 + c.toNat)) 7 := by
  funext m p
  have hshift : ∀ (m : Byte) (c : Bool),
      m <<< 1 ||| (if c then 0x01 else 0x00) = BitVec.ofNat 8 (m.toNat * 2 + c.toNat) := by decide
  simp only [ruleRol, shiftRule, hshift]

theorem ruleRor_eq : ruleRor = shiftRule (fun m c => BitVec.ofNat 8 (m.toNat / 2 + 128 * c.toNat)) 0 := by
  funext m p
  have hshift : ∀ (m : Byte) (c : Bool),
      m >>> 1 ||| (if c then 0x80 else 0x00) = BitVec.ofNat 8 (m.toNat / 2 + 128 * c.toNat) := by decide
  simp only [ruleRor, shiftRule, hshift]

/-- Settles O42: the modes and bytes are the kind's rows of the opcode map, and each kind's rule, on A or at the resolved
address, is that of its shift. -/
theorem shiftsAndRotatesUnderFullIsa : Obligations.ShiftsAndRotatesUnderFullIsa := by
  intro i s k shift out hfull hk hkind
  have hruns := runs_of_fullIsa hfull i.kind
  have hh : handlerOf i.kind = .modify (shiftRule shift out) := by
    rw [hk]
    rcases hkind with ⟨rfl, rfl, rfl⟩ | ⟨rfl, rfl, rfl⟩ | ⟨rfl, rfl, rfl⟩ | ⟨rfl, rfl, rfl⟩
    · rw [← ruleAsl_eq]; rfl
    · rw [← ruleLsr_eq]; rfl
    · rw [← ruleRol_eq]; rfl
    · rw [← ruleRor_eq]; rfl
  refine ⟨fun h => mode_opcodeByte_mem_rows (hk.trans h) ?aslRows, fun h => mode_opcodeByte_mem_rows (hk.trans h) ?lsrRows,
    fun h => mode_opcodeByte_mem_rows (hk.trans h) ?rolRows, fun h => mode_opcodeByte_mem_rows (hk.trans h) ?rorRows,
    fun hm => ?accumulator, fun hm => ?memory⟩
  case aslRows | lsrRows | rolRows | rorRows => decide +kernel
  case accumulator => exact exec_modifyA hruns hh hm
  case memory =>
    obtain ⟨addr, es, ha, he⟩ := exec_modifyAt hruns (.inr ⟨hh, hm, mode_of_modify i hh⟩)
    refine ⟨addr, s.logEvents es, ha, ?_⟩
    rw [he, modifyAt_eq]
    simp only [busRead_p]
    rfl

/-- What INC and DEC have in common: the stepped byte, with Z and N from it and no other flag. -/
def stepRule (next : Byte → Byte) (m : Byte) (p : StatusRegister) : Byte × StatusRegister := (next m, p.setZN (next m))

theorem ruleInc_eq : ruleInc = stepRule fun m => BitVec.ofNat 8 (m.toNat + 1) := by
  funext m p
  have hnext : m + 1 = BitVec.ofNat 8 (m.toNat + 1) := by bv_omega
  simp only [ruleInc, stepRule, hnext]

theorem ruleDec_eq : ruleDec = stepRule fun m => BitVec.ofNat 8 (m.toNat + 255) := by
  funext m p
  have hnext : m - 1 = BitVec.ofNat 8 (m.toNat + 255) := by bv_omega
  simp only [ruleDec, stepRule, hnext]

/-- Under `full_isa` a kind that steps a byte of memory reads it once and writes it once at the resolved address. -/
theorem exec_modifyMemory_of_fullIsa {rule : Byte → StatusRegister → Byte × StatusRegister} {next : Byte → Byte}
    (hfull : s.cfg.fullIsa = true) (hh : handlerOf i.kind = .modifyMemory rule) (hrule : rule = stepRule next) :
    ∃ addr s1, addressOf i s = some (addr, s1) ∧
      (let m := (busRead addr s1).1
       let s2 := (busRead addr s1).2
       let r := next m
       exec i s = .next (busWrite addr r { s2 with p := { s2.p with z := (r == 0x00), n := r.getLsbD 7 } })) := by
  subst hrule
  obtain ⟨addr, es, ha, he⟩ := exec_modifyAt (runs_of_fullIsa hfull i.kind) (.inl hh)
  refine ⟨addr, s.logEvents es, ha, ?_⟩
  rw [he, modifyAt_eq]
  simp only [busRead_p]
  rfl

/-- Settles O43: the modes and bytes are the kind's rows of the opcode map, and neither rule looks at the configuration. -/
theorem memoryIncDecAlwaysWraps : Obligations.MemoryIncDecAlwaysWraps := by
  intro i s hfull hkind
  refine ⟨fun hk => mode_opcodeByte_mem_rows hk ?incRows, fun hk => mode_opcodeByte_mem_rows hk ?decRows, ?step⟩
  case incRows | decRows => decide +kernel
  case step =>
    rcases hkind with hk | hk
    · have hinc := exec_modifyMemory_of_fullIsa hfull (by rw [hk]; rfl) ruleInc_eq
      simpa only [hk, if_true] using hinc
    · have hdec := exec_modifyMemory_of_fullIsa hfull (by rw [hk]; rfl) ruleDec_eq
      simpa only [hk, reduceCtorEq, if_false] using hdec

end Sys2Proof.Machine
end

section
/-! SUPPORT. The kinds that use the page-one stack under `full_isa` (48_unimplemented.md section 3): the pushes and pulls
(O48), JSR and RTS (O49), BRK and RTI (O51), and that a return undoes its entry from any state that keeps S and the stack
bytes (O50, O52). -/

namespace Sys2Proof.Machine

variable {i : Instr} {s t u : State}

/-- Under `full_isa` a kind that takes no operand runs its rule, with no bus access before it (R118, R119). -/
theorem exec_none_of_fullIsa {rule : State → State} (hfull : s.cfg.fullIsa = true) (hh : handlerOf i.kind = .none rule) :
    exec i s = .next (rule s) :=
  exec_none (runs_of_fullIsa hfull i.kind) hh

/-! ## The stack pointer and the bytes it names (R240, R241) -/

theorem sub_one_sub_one (sp : Byte) : sp - 1 - 1 = sp - 2 := by bv_omega

theorem sub_two_sub_one (sp : Byte) : sp - 2 - 1 = sp - 3 := by bv_omega

theorem add_one_add_one (sp : Byte) : sp + 1 + 1 = sp + 2 := by bv_omega

theorem add_one_add_two (sp : Byte) : sp + 1 + 2 = sp + 3 := by bv_omega

/-- Two pushes: the high byte at S, the low byte below it. -/
theorem pushWord_eq_sub_two (w : Addr) (s : State) :
    pushWord w s =
      { s with
        ram := (s.ram.write (0x100 + s.sp.toNat) (hiByte w)).write (0x100 + (s.sp - 1).toNat) (loByte w)
        sp := s.sp - 2 } := by
  rw [pushWord_eq, sub_one_sub_one]
  rfl

/-- Two pulls: the low byte above S, the high byte above it. -/
theorem pullWord_eq_add_two (s : State) :
    pullWord s =
      (concat (s.ram.read (0x100 + (s.sp + 2).toNat)) (s.ram.read (0x100 + (s.sp + 1).toNat)),
        { s with sp := s.sp + 2 }) := by
  rw [pullWord_eq, add_one_add_one]
  rfl

/-- Settles O48: each kind takes no operand, and one push or one pull is its one access to the stack. -/
theorem pushesAndPullsUseThePageOneStack : Obligations.PushesAndPullsUseThePageOneStack := by
  intro s hfull
  have hnext : (s.sp.toNat + 1) % 256 = (s.sp + 1).toNat := (BitVec.toNat_add s.sp 1).symm
  rw [hnext]
  refine ⟨rfl, rfl, rfl, rfl, ?pha, ?php, ?pla, ?plp⟩
  case pha => rw [exec_none_of_fullIsa (rule := rulePha) hfull rfl, rulePha, push_eq]; rfl
  case php => rw [exec_none_of_fullIsa (rule := rulePhp) hfull rfl, rulePhp, push_eq]; rfl
  case pla => rw [exec_none_of_fullIsa (rule := rulePla) hfull rfl, rulePla, pull_eq]; rfl
  case plp => rw [exec_none_of_fullIsa (rule := rulePlp) hfull rfl, rulePlp, pull_eq]; rfl

/-! ## JSR and RTS (R220, R229) -/

/-- JSR resolves its operand with no bus access, pushes the address of its own last byte, and jumps. -/
theorem exec_jsrAbs (hfull : s.cfg.fullIsa = true) (w : Addr) :
    exec (.jsrAbs w) s = .next
      { s with
        ram := (s.ram.write (0x100 + s.sp.toNat) (hiByte (s.pc - 1))).write (0x100 + (s.sp - 1).toNat)
          (loByte (s.pc - 1))
        sp := s.sp - 2
        pc := w } := by
  obtain ⟨addr, es, ha, he⟩ := exec_address (i := .jsrAbs w) (runs_of_fullIsa hfull _) rfl
  have hresolved : addressOf (.jsrAbs w) s = some (w, s) := rfl
  rw [hresolved, Option.some.injEq, Prod.mk.injEq] at ha
  obtain ⟨rfl, hs⟩ := ha
  rw [he, ← hs, ruleJsr, pushWord_eq_sub_two]
  rfl

/-- RTS pulls a word and continues one past it. -/
theorem exec_rts (hfull : s.cfg.fullIsa = true) :
    exec .rts s = .next
      { s with
        sp := s.sp + 2
        pc := concat (s.ram.read (0x100 + (s.sp + 2).toNat)) (s.ram.read (0x100 + (s.sp + 1).toNat)) + 1 } := by
  rw [exec_none_of_fullIsa (rule := ruleRts) hfull rfl, ruleRts, pullWord_eq_add_two]
  rfl

/-- Settles O49, with each kind's next state as its own lemma. -/
theorem jsrPushesAndRtsPulls : Obligations.JsrPushesAndRtsPulls :=
  fun _ w hfull => ⟨rfl, rfl, exec_jsrAbs hfull w, exec_rts hfull⟩

/-- Settles O50: the two stack bytes make the pushed address again, and S goes down and up by two. -/
theorem rtsUndoesJsr : Obligations.RtsUndoesJsr := by
  intro s t u w hfull hwf hjsr hufull husp hhi hlo
  cases (exec_jsrAbs hfull w).symm.trans hjsr
  have hne : 0x100 + s.sp.toNat ≠ 0x100 + (s.sp - 1).toNat := by bv_omega
  have hsp2 : u.sp + 2 = s.sp := by rw [husp]; exact BitVec.sub_add_cancel s.sp 2
  have hsp1 : u.sp + 1 = s.sp - 1 := by rw [husp]; bv_omega
  rw [Memory.read_write_other _ hne, Memory.read_write_same hwf] at hhi
  rw [Memory.read_write_same (Memory.wf_write hwf _ _)] at hlo
  rw [exec_rts hufull, hsp2, hsp1, hhi, hlo, concat_hiByte_loByte, BitVec.sub_add_cancel]

/-! ## BRK and RTI (R214, R228) -/

/-- BRK pushes the return address and then the packed P, and continues at the vector, whose bytes are image bytes. -/
theorem exec_brk (hfull : s.cfg.fullIsa = true) :
    exec .brk s = .next
      { s with
        ram := ((s.ram.write (0x100 + s.sp.toNat) (hiByte (s.pc + 1))).write (0x100 + (s.sp - 1).toNat)
          (loByte (s.pc + 1))).write (0x100 + (s.sp - 2).toNat) (s.p.pack ||| 0x30)
        sp := s.sp - 3
        p := { s.p with i := true }
        pc := concat (s.cfg.romRead 0xFFFF) (s.cfg.romRead 0xFFFE) } := by
  rw [exec_none_of_fullIsa (rule := ruleBrk) hfull rfl, ruleBrk, enterBreak_eq, pushWord_eq_sub_two, push_eq,
    sub_two_sub_one]
  rfl

/-- RTI pulls P, which keeps `P.R` and `P.B`, and then pc. -/
theorem exec_rti (hfull : s.cfg.fullIsa = true) :
    exec .rti s = .next
      { s with
        sp := s.sp + 3
        p := s.p.restore (s.ram.read (0x100 + (s.sp + 1).toNat))
        pc := concat (s.ram.read (0x100 + (s.sp + 3).toNat)) (s.ram.read (0x100 + (s.sp + 2).toNat)) } := by
  rw [exec_none_of_fullIsa (rule := ruleRti) hfull rfl, ruleRti, returnFromBreak_eq, pull_eq, pullWord_eq_add_two]
  simp only [State.setP_sp, State.setSp_sp, add_one_add_one, add_one_add_two]
  rfl

/-- Settles O51, with each kind's next state as its own lemma. -/
theorem brkEntersAndRtiReturns : Obligations.BrkEntersAndRtiReturns :=
  fun _ hfull => ⟨rfl, rfl, exec_brk hfull, exec_rti hfull⟩

/-- The pushed byte restores the six flags that were packed, whatever bits 5 and 4 hold; `P.R` and `P.B` stay (R225). -/
theorem StatusRegister.restore_pack (p q : StatusRegister) :
    q.restore (p.pack ||| 0x30) = { p with r := q.r, b := q.b } := by
  have hbits : ∀ n v r b d i z c : Bool,
      let byte := pack { n, v, r, b, d, i, z, c } ||| 0x30
      byte.getLsbD 7 = n ∧ byte.getLsbD 6 = v ∧ byte.getLsbD 3 = d ∧ byte.getLsbD 2 = i ∧ byte.getLsbD 1 = z ∧
        byte.getLsbD 0 = c := by decide
  obtain ⟨hn, hv, hd, hi, hz, hc⟩ := hbits p.n p.v p.r p.b p.d p.i p.z p.c
  simp only [restore, setN, setV, setD, setI, setZ, setC, hn, hv, hd, hi, hz, hc]

/-- Settles O52: the three stack bytes make the pushed P and the pushed address again, and S goes down and up by three. -/
theorem rtiUndoesBrk : Obligations.RtiUndoesBrk := by
  intro s t u hfull hwf hbrk hufull husp hhi hlo hp
  cases (exec_brk hfull).symm.trans hbrk
  have hsp3 : u.sp + 3 = s.sp := by rw [husp]; exact BitVec.sub_add_cancel s.sp 3
  have hsp2 : u.sp + 2 = s.sp - 1 := by rw [husp]; bv_omega
  have hsp1 : u.sp + 1 = s.sp - 2 := by rw [husp]; bv_omega
  have hne1 : 0x100 + s.sp.toNat ≠ 0x100 + (s.sp - 1).toNat := by bv_omega
  have hne2 : 0x100 + s.sp.toNat ≠ 0x100 + (s.sp - 2).toNat := by bv_omega
  have hne12 : 0x100 + (s.sp - 1).toNat ≠ 0x100 + (s.sp - 2).toNat := by bv_omega
  have hwf1 := Memory.wf_write hwf (0x100 + s.sp.toNat) (hiByte (s.pc + 1))
  rw [Memory.read_write_other _ hne2, Memory.read_write_other _ hne1, Memory.read_write_same hwf] at hhi
  rw [Memory.read_write_other _ hne12, Memory.read_write_same hwf1] at hlo
  rw [Memory.read_write_same (Memory.wf_write hwf1 _ _)] at hp
  rw [exec_rti hufull, hsp3, hsp2, hsp1, hhi, hlo, hp, concat_hiByte_loByte, StatusRegister.restore_pack]

end Sys2Proof.Machine
end
